-- ==== Sys2Proof/Word.lean ====
section
/-! DEFINITION. The widths of 00_scope.md R4 and the notation of R8: what the spec treats as bits. -/

namespace Sys2Proof

/-- A memory cell's byte, a register, a timer, `kk` (R4, R8). -/
abbrev Byte := BitVec 8

/-- A 12-bit address: `I`, `pc`, a stack entry, `nnn` (R4). -/
abbrev Addr := BitVec 12

/-- A register number `X` or `Y` (10_state.md R10). -/
abbrev RegNum := BitVec 4

/-- The 4-bit immediate `N` (30_encoding.md R61). -/
abbrev Nibble := BitVec 4

/-- An instruction word `w` (R60). -/
abbrev Word := BitVec 16

/-- The sixteen key levels, bit `i` for key `i` (10_state.md R17). -/
abbrev Keys := BitVec 16

end Sys2Proof
end

