-- ==== Sys2Proof/Config.lean ====
section
/-! DEFINITION. The configuration record (00_scope.md R5, 10_state.md R21) and the values the spec leaves free. The
record's default values stand in Decode.lean, beside the sets the decoder classifies by. -/

namespace Sys2Proof

/-- Which register `shr` and `shl` read (41_arithmetic.md R108, R110). -/
inductive ShiftMode where
  | legacy
  | modern
  deriving DecidableEq, Repr

/-- `UNOFFICIAL_LOG`: no event, or an event of that severity (40_decode_dispatch.md R86). -/
inductive UnofficialLog where
  | none
  | info
  | warning
  deriving DecidableEq, Repr

/-- One template of a classification set, the words `w` with `w & mask = value` (R64, R66, R67). With mask `0xFFFF` it is
one word, so a list of templates names any set of 16-bit words. -/
structure Template where
  mask  : Word
  value : Word
  deriving DecidableEq, Repr

/-- The configuration record: taken at reset, constant until the next one (R5, 70_reset_and_hazards.md R201). -/
structure Config where
  shiftMode       : ShiftMode
  addIVf          : Bool
  strictUninit    : Bool
  stackDepth      : Nat
  stackFaultFatal : Bool
  invalidFatal    : Bool
  unofficialLog   : UnofficialLog
  banned          : List Template
  extended        : List Template
  rewindDepth     : Nat
  deriving DecidableEq, Repr

/-- FREE VALUE (log 4): the byte on `rand_in` at the `n`-th draw of `rnd`, any value under no law (R111, D30). -/
opaque Config.randIn : Nat → Byte

/-- FREE VALUE (log 6): what a stack cell outside the array of `STACK_DEPTH` entries would read as. No run reads one; the
spec gives entries at `sp` and above no meaning (10_state.md R16, D39). -/
opaque Config.absentStackCell : Nat → Addr

end Sys2Proof
end

