-- ==== Sys2Proof/Syntax.lean ====
section
/-! DEFINITION. The instructions: one constructor per row of spec/opcode_table.json (30_encoding.md R65, R66, R67), and
the operand kinds of R63. -/

namespace Sys2Proof

/-- The 20 mnemonics (R65, 40_decode_dispatch.md R83): the keys of the dispatch mux. -/
inductive Mnemonic where
  | cls | ret | sys | jp | call | se | sne | ld | add | or | and | xor | sub | shr | subn | shl | rnd | drw | skp | sknp
  deriving DecidableEq, Repr

/-- The closed list of operand kinds, each with its extracted value (R63). -/
inductive Operand where
  | register (x : RegNum)
  | byte (kk : Byte)
  | address (nnn : Addr)
  | nibble (n : Nibble)
  | indexRegister
  | delayTimer
  | soundTimer
  | font
  | bcd
  | indirectLoad
  | indirectStore
  | keyWait
  | v0
  deriving DecidableEq, Repr

/-- What a row of the table is: one of the 35 variants, or a template of one of the two classification sets. -/
inductive RowClass where
  | valid
  | extendedUnsupported
  | banned
  deriving DecidableEq, Repr

/-- The instructions. The row numbers are those of R65; the two last groups are the templates of R66 and R67, whose words
the decoder returns as invalid with the reason, and which execute by 40_decode_dispatch.md R89. -/
inductive Instr where
  | cls                                        -- 1   00E0
  | ret                                        -- 2   00EE
  | sys (nnn : Addr)                           -- 3   0nnn
  | jpAddr (nnn : Addr)                        -- 4   1nnn
  | call (nnn : Addr)                          -- 5   2nnn
  | seByte (x : RegNum) (kk : Byte)            -- 6   3Xkk
  | sneByte (x : RegNum) (kk : Byte)           -- 7   4Xkk
  | seReg (x y : RegNum)                       -- 8   5XY0
  | ldByte (x : RegNum) (kk : Byte)            -- 9   6Xkk
  | addByte (x : RegNum) (kk : Byte)           -- 10  7Xkk
  | ldReg (x y : RegNum)                       -- 11  8XY0
  | orReg (x y : RegNum)                       -- 12  8XY1
  | andReg (x y : RegNum)                      -- 13  8XY2
  | xorReg (x y : RegNum)                      -- 14  8XY3
  | addReg (x y : RegNum)                      -- 15  8XY4
  | subReg (x y : RegNum)                      -- 16  8XY5
  | shrReg (x y : RegNum)                      -- 17  8XY6
  | subnReg (x y : RegNum)                     -- 18  8XY7
  | shlReg (x y : RegNum)                      -- 19  8XYE
  | sneReg (x y : RegNum)                      -- 20  9XY0
  | ldIAddr (nnn : Addr)                       -- 21  Annn
  | jpV0 (nnn : Addr)                          -- 22  Bnnn
  | rnd (x : RegNum) (kk : Byte)               -- 23  CXkk
  | drw (x y : RegNum) (n : Nibble)            -- 24  DXYN, N not 0
  | skp (x : RegNum)                           -- 25  EX9E
  | sknp (x : RegNum)                          -- 26  EXA1
  | ldVxDt (x : RegNum)                        -- 27  FX07
  | ldVxK (x : RegNum)                         -- 28  FX0A
  | ldDtVx (x : RegNum)                        -- 29  FX15
  | ldStVx (x : RegNum)                        -- 30  FX18
  | addIVx (x : RegNum)                        -- 31  FX1E
  | ldFVx (x : RegNum)                         -- 32  FX29
  | ldBVx (x : RegNum)                         -- 33  FX33
  | ldIndVx (x : RegNum)                       -- 34  FX55, ld [i], vX
  | ldVxInd (x : RegNum)                       -- 35  FX65, ld vX, [i]
  | ext00C (n : Nibble)                        -- 00C.
  | ext00FB                                    -- 00FB
  | ext00FC                                    -- 00FC
  | ext00FD                                    -- 00FD
  | ext00FE                                    -- 00FE
  | ext00FF                                    -- 00FF
  | extDXY0 (x y : RegNum)                     -- D..0
  | extFX30 (x : RegNum)                       -- F.30
  | extFX75 (x : RegNum)                       -- F.75
  | extFX85 (x : RegNum)                       -- F.85
  | ban6F (kk : Byte)                          -- 6F..
  | ban7F (kk : Byte)                          -- 7F..
  | ban8FY0 (y : RegNum)                       -- 8F.0
  | banCF (kk : Byte)                          -- CF..
  | banFF07                                    -- FF07
  | banFF0A                                    -- FF0A
  | banFF65                                    -- FF65
  | ban8FY4 (y : RegNum)                       -- 8F.4
  | ban8FY6 (y : RegNum)                       -- 8F.6
  | ban8FYE (y : RegNum)                       -- 8F.E
  deriving DecidableEq, Repr

/-- Why a word is Classified-invalid (R69). -/
inductive InvalidReason where
  | extendedUnsupported
  | banned
  deriving DecidableEq, Repr

/-- What the decoder makes of a word. `instr` is a row of the table: a Valid variant, or a template row of a set. `invalid`
is a word that only a non-default configuration puts into a set, outside the templates of the table (log 15).
`unclassified` is a data word (R68). -/
inductive Decoded where
  | instr (i : Instr)
  | invalid (r : InvalidReason) (w : Word)
  | unclassified (w : Word)
  deriving DecidableEq, Repr

/-- The DecodedInstruction record of R72. -/
structure DecodedInstruction where
  word       : Word
  valid      : Bool
  mnemonic   : Option Mnemonic
  operands   : List Operand
  unofficial : Bool
  banned     : Bool
  extended   : Bool
  deriving DecidableEq, Repr

end Sys2Proof
end

