-- ==== Sys2Proof/Decode.lean ====
section
/-! DEFINITION. The decoder (30_encoding.md R60 to R73): the fields, the classification sets, the opcode map, the decode
result, and after them the encoder, written from the same map. Total on every word; a word that is no instruction is
answered by name. -/

namespace Sys2Proof

-- The fields of a word (R61), each an unsigned number as it stands (R63).

/-- The leading nibble, `w[15:12]`. -/
def opNibble (w : Word) : Nibble := w.extractLsb' 12 4

/-- `X = w[11:8]`. -/
def fieldX (w : Word) : RegNum := w.extractLsb' 8 4

/-- `Y = w[7:4]`. -/
def fieldY (w : Word) : RegNum := w.extractLsb' 4 4

/-- `N = w[3:0]`. -/
def fieldN (w : Word) : Nibble := w.extractLsb' 0 4

/-- `kk = w[7:0]`. -/
def fieldKk (w : Word) : Byte := w.extractLsb' 0 8

/-- `nnn = w[11:0]`. -/
def fieldNnn (w : Word) : Addr := w.extractLsb' 0 12

-- The classification sets (R66, R67) and the default configuration (00_scope.md R5).

/-- Whether a word is of a template: `(w & mask) = value`. -/
def Template.covers (t : Template) (w : Word) : Bool := w &&& t.mask == t.value

/-- Whether a word is in a set of words given by templates. -/
def inSet (ts : List Template) (w : Word) : Bool := ts.any (fun t => t.covers w)

/-- The default `EXTENDED`: the ten templates of R66, 325 words. -/
def defaultExtended : List Template :=
  [⟨0xFFF0, 0x00C0⟩, ⟨0xFFFF, 0x00FB⟩, ⟨0xFFFF, 0x00FC⟩, ⟨0xFFFF, 0x00FD⟩, ⟨0xFFFF, 0x00FE⟩, ⟨0xFFFF, 0x00FF⟩]
  ++ [⟨0xF00F, 0xD000⟩, ⟨0xF0FF, 0xF030⟩, ⟨0xF0FF, 0xF075⟩, ⟨0xF0FF, 0xF085⟩]

/-- The default `BANNED`: the ten templates of R67, 835 words. -/
def defaultBanned : List Template :=
  [⟨0xFF00, 0x6F00⟩, ⟨0xFF00, 0x7F00⟩, ⟨0xFF0F, 0x8F00⟩, ⟨0xFF00, 0xCF00⟩, ⟨0xFFFF, 0xFF07⟩, ⟨0xFFFF, 0xFF0A⟩]
  ++ [⟨0xFFFF, 0xFF65⟩, ⟨0xFF0F, 0x8F04⟩, ⟨0xFF0F, 0x8F06⟩, ⟨0xFF0F, 0x8F0E⟩]

/-- The defaults of R5. `SHIFT_MODE` and `STRICT_UNINIT` have none in the spec: `modern` is PRESUMED (the spec suggests it
from general knowledge) and `false` is a DESIGN CHOICE (log 5, unsafe); statements quantify over both. -/
def Config.default : Config where
  shiftMode       := .modern
  addIVf          := false
  strictUninit    := false
  stackDepth      := 12
  stackFaultFatal := true
  invalidFatal    := false
  unofficialLog   := .none
  banned          := defaultBanned
  extended        := defaultExtended
  rewindDepth     := 0

/-- The conditions of 70_reset_and_hazards.md R201; a configuration that fails them has no reset state. -/
def Config.legal (c : Config) : Bool := decide (1 ≤ c.stackDepth) && c.stackFaultFatal

-- The opcode map (R65), keyed by the leading nibble. Rows are mutually exclusive; `drw` has no row for `N` = 0 (log 14).

/-- Family 8, keyed by `N` (rows 11 to 19). -/
def decodeFamily8 (w : Word) : Option Instr :=
  match fieldN w with
  | 0x0 => some (.ldReg (fieldX w) (fieldY w))
  | 0x1 => some (.orReg (fieldX w) (fieldY w))
  | 0x2 => some (.andReg (fieldX w) (fieldY w))
  | 0x3 => some (.xorReg (fieldX w) (fieldY w))
  | 0x4 => some (.addReg (fieldX w) (fieldY w))
  | 0x5 => some (.subReg (fieldX w) (fieldY w))
  | 0x6 => some (.shrReg (fieldX w) (fieldY w))
  | 0x7 => some (.subnReg (fieldX w) (fieldY w))
  | 0xE => some (.shlReg (fieldX w) (fieldY w))
  | _ => none

/-- Family E, keyed by `kk` (rows 25, 26). -/
def decodeFamilyE (w : Word) : Option Instr :=
  match fieldKk w with
  | 0x9E => some (.skp (fieldX w))
  | 0xA1 => some (.sknp (fieldX w))
  | _ => none

/-- Family F, keyed by `kk` (rows 27 to 35). -/
def decodeFamilyF (w : Word) : Option Instr :=
  match fieldKk w with
  | 0x07 => some (.ldVxDt (fieldX w))
  | 0x0A => some (.ldVxK (fieldX w))
  | 0x15 => some (.ldDtVx (fieldX w))
  | 0x18 => some (.ldStVx (fieldX w))
  | 0x1E => some (.addIVx (fieldX w))
  | 0x29 => some (.ldFVx (fieldX w))
  | 0x33 => some (.ldBVx (fieldX w))
  | 0x55 => some (.ldIndVx (fieldX w))
  | 0x65 => some (.ldVxInd (fieldX w))
  | _ => none

/-- Family 0: `cls`, `ret`, and `sys` for every other word (rows 1 to 3, R64). -/
def decodeFamily0 (w : Word) : Instr :=
  if fieldNnn w = 0x0E0 then .cls else if fieldNnn w = 0x0EE then .ret else .sys (fieldNnn w)

/-- The row of R65 a word matches, or none. -/
def decodeValid (w : Word) : Option Instr :=
  match opNibble w with
  | 0x0 => some (decodeFamily0 w)
  | 0x1 => some (.jpAddr (fieldNnn w))
  | 0x2 => some (.call (fieldNnn w))
  | 0x3 => some (.seByte (fieldX w) (fieldKk w))
  | 0x4 => some (.sneByte (fieldX w) (fieldKk w))
  | 0x5 => if fieldN w = 0 then some (.seReg (fieldX w) (fieldY w)) else none
  | 0x6 => some (.ldByte (fieldX w) (fieldKk w))
  | 0x7 => some (.addByte (fieldX w) (fieldKk w))
  | 0x8 => decodeFamily8 w
  | 0x9 => if fieldN w = 0 then some (.sneReg (fieldX w) (fieldY w)) else none
  | 0xA => some (.ldIAddr (fieldNnn w))
  | 0xB => some (.jpV0 (fieldNnn w))
  | 0xC => some (.rnd (fieldX w) (fieldKk w))
  | 0xD => if fieldN w = 0 then none else some (.drw (fieldX w) (fieldY w) (fieldN w))
  | 0xE => decodeFamilyE w
  | 0xF => decodeFamilyF w
  | _ => none

/-- The SUPER-CHIP template row of R66 a word is of, or none. -/
def extendedRow (w : Word) : Option Instr :=
  match opNibble w with
  | 0x0 =>
    match fieldNnn w with
    | 0x0FB => some .ext00FB
    | 0x0FC => some .ext00FC
    | 0x0FD => some .ext00FD
    | 0x0FE => some .ext00FE
    | 0x0FF => some .ext00FF
    | _ => if fieldX w = 0x0 ∧ fieldY w = 0xC then some (.ext00C (fieldN w)) else none
  | 0xD => if fieldN w = 0 then some (.extDXY0 (fieldX w) (fieldY w)) else none
  | 0xF =>
    match fieldKk w with
    | 0x30 => some (.extFX30 (fieldX w))
    | 0x75 => some (.extFX75 (fieldX w))
    | 0x85 => some (.extFX85 (fieldX w))
    | _ => none
  | _ => none

/-- The banned template row of R67 a word is of, or none: each has `X` = 15. -/
def bannedRow (w : Word) : Option Instr :=
  if fieldX w = 0xF then
    match opNibble w with
    | 0x6 => some (.ban6F (fieldKk w))
    | 0x7 => some (.ban7F (fieldKk w))
    | 0x8 =>
      match fieldN w with
      | 0x0 => some (.ban8FY0 (fieldY w))
      | 0x4 => some (.ban8FY4 (fieldY w))
      | 0x6 => some (.ban8FY6 (fieldY w))
      | 0xE => some (.ban8FYE (fieldY w))
      | _ => none
    | 0xC => some (.banCF (fieldKk w))
    | 0xF =>
      match fieldKk w with
      | 0x07 => some .banFF07
      | 0x0A => some .banFF0A
      | 0x65 => some .banFF65
      | _ => none
    | _ => none
  else none

/-- A row where there is one, else the answer `d`. -/
def orElseDecoded (row : Option Instr) (d : Decoded) : Decoded :=
  match row with
  | some i => .instr i
  | none => d

/-- The decoder (R69): `EXTENDED`, then `BANNED`, then the rows of R65, else Unclassified (R68). -/
def decode (c : Config) (w : Word) : Decoded :=
  if inSet c.extended w then orElseDecoded (extendedRow w) (.invalid .extendedUnsupported w)
  else if inSet c.banned w then orElseDecoded (bannedRow w) (.invalid .banned w)
  else orElseDecoded (decodeValid w) (.unclassified w)

/-- The word of two bytes as they lie in memory, the first at the lower address: big-endian (20_memory.md R45). -/
def wordOfBytes (hi lo : Byte) : Word := hi ++ lo

/-- The byte at the lower address, `w[15:8]`. -/
def hiByte (w : Word) : Byte := w.extractLsb' 8 8

/-- The byte at the higher address, `w[7:0]`. -/
def loByte (w : Word) : Byte := w.extractLsb' 0 8

/-- The decoder on the bytes of memory. -/
def decodeBytes (c : Config) (hi lo : Byte) : Decoded := decode c (wordOfBytes hi lo)

/-- What the decoder, under the default configuration, reads from an instruction whose bits are `w` numbered as
spec/opcode_table.json numbers them: one 16-bit word, laid out in memory big-endian. -/
def decodeTableWord (nbits w : Nat) : Option Instr :=
  let word : Word := BitVec.ofNat 16 (w % 2 ^ nbits)
  match decodeBytes Config.default (hiByte word) (loByte word) with
  | .instr i => some i
  | .invalid _ _ => none
  | .unclassified _ => none

-- The encoder, from the same map.

/-- Format A, `Tnnn` (R62). -/
def formatA (op : Nibble) (nnn : Addr) : Word := op ++ nnn

/-- Formats RB and R, `TXkk` and `TXmm` (R62). -/
def formatRB (op : Nibble) (x : RegNum) (kk : Byte) : Word := op ++ (x ++ kk)

/-- Formats RR and RRN, `TXYm` and `DXYN` (R62). -/
def formatRR (op : Nibble) (x y : RegNum) (n : Nibble) : Word := op ++ (x ++ (y ++ n))

/-- The word of an instruction (R65, R66, R67). -/
def encode (i : Instr) : Word :=
  match i with
  | .cls => formatA 0x0 0x0E0
  | .ret => formatA 0x0 0x0EE
  | .sys nnn => formatA 0x0 nnn
  | .jpAddr nnn => formatA 0x1 nnn
  | .call nnn => formatA 0x2 nnn
  | .seByte x kk => formatRB 0x3 x kk
  | .sneByte x kk => formatRB 0x4 x kk
  | .seReg x y => formatRR 0x5 x y 0x0
  | .ldByte x kk => formatRB 0x6 x kk
  | .addByte x kk => formatRB 0x7 x kk
  | .ldReg x y => formatRR 0x8 x y 0x0
  | .orReg x y => formatRR 0x8 x y 0x1
  | .andReg x y => formatRR 0x8 x y 0x2
  | .xorReg x y => formatRR 0x8 x y 0x3
  | .addReg x y => formatRR 0x8 x y 0x4
  | .subReg x y => formatRR 0x8 x y 0x5
  | .shrReg x y => formatRR 0x8 x y 0x6
  | .subnReg x y => formatRR 0x8 x y 0x7
  | .shlReg x y => formatRR 0x8 x y 0xE
  | .sneReg x y => formatRR 0x9 x y 0x0
  | .ldIAddr nnn => formatA 0xA nnn
  | .jpV0 nnn => formatA 0xB nnn
  | .rnd x kk => formatRB 0xC x kk
  | .drw x y n => formatRR 0xD x y n
  | .skp x => formatRB 0xE x 0x9E
  | .sknp x => formatRB 0xE x 0xA1
  | .ldVxDt x => formatRB 0xF x 0x07
  | .ldVxK x => formatRB 0xF x 0x0A
  | .ldDtVx x => formatRB 0xF x 0x15
  | .ldStVx x => formatRB 0xF x 0x18
  | .addIVx x => formatRB 0xF x 0x1E
  | .ldFVx x => formatRB 0xF x 0x29
  | .ldBVx x => formatRB 0xF x 0x33
  | .ldIndVx x => formatRB 0xF x 0x55
  | .ldVxInd x => formatRB 0xF x 0x65
  | .ext00C n => formatRR 0x0 0x0 0xC n
  | .ext00FB => formatA 0x0 0x0FB
  | .ext00FC => formatA 0x0 0x0FC
  | .ext00FD => formatA 0x0 0x0FD
  | .ext00FE => formatA 0x0 0x0FE
  | .ext00FF => formatA 0x0 0x0FF
  | .extDXY0 x y => formatRR 0xD x y 0x0
  | .extFX30 x => formatRB 0xF x 0x30
  | .extFX75 x => formatRB 0xF x 0x75
  | .extFX85 x => formatRB 0xF x 0x85
  | .ban6F kk => formatRB 0x6 0xF kk
  | .ban7F kk => formatRB 0x7 0xF kk
  | .ban8FY0 y => formatRR 0x8 0xF y 0x0
  | .banCF kk => formatRB 0xC 0xF kk
  | .banFF07 => formatRB 0xF 0xF 0x07
  | .banFF0A => formatRB 0xF 0xF 0x0A
  | .banFF65 => formatRB 0xF 0xF 0x65
  | .ban8FY4 y => formatRR 0x8 0xF y 0x4
  | .ban8FY6 y => formatRR 0x8 0xF y 0x6
  | .ban8FYE y => formatRR 0x8 0xF y 0xE

-- What a row of the table says of an instruction.

/-- The class of an instruction's row. -/
def Instr.rowClass (i : Instr) : RowClass :=
  match i with
  | .cls | .ret | .sys _ | .jpAddr _ | .call _ | .seByte _ _ | .sneByte _ _ | .seReg _ _ | .ldByte _ _ | .addByte _ _
  | .ldReg _ _ | .orReg _ _ | .andReg _ _ | .xorReg _ _ | .addReg _ _ | .subReg _ _ | .shrReg _ _ | .subnReg _ _
  | .shlReg _ _ | .sneReg _ _ | .ldIAddr _ | .jpV0 _ | .rnd _ _ | .drw _ _ _ | .skp _ | .sknp _ | .ldVxDt _ | .ldVxK _
  | .ldDtVx _ | .ldStVx _ | .addIVx _ | .ldFVx _ | .ldBVx _ | .ldIndVx _ | .ldVxInd _ => .valid
  | .ext00C _ | .ext00FB | .ext00FC | .ext00FD | .ext00FE | .ext00FF | .extDXY0 _ _ | .extFX30 _ | .extFX75 _
  | .extFX85 _ => .extendedUnsupported
  | .ban6F _ | .ban7F _ | .ban8FY0 _ | .banCF _ | .banFF07 | .banFF0A | .banFF65 | .ban8FY4 _ | .ban8FY6 _
  | .ban8FYE _ => .banned

/-- The mask and match columns of an instruction's row (R65, R66, R67). -/
def Instr.template (i : Instr) : Template :=
  match i with
  | .cls => ⟨0xFFFF, 0x00E0⟩
  | .ret => ⟨0xFFFF, 0x00EE⟩
  | .sys _ => ⟨0xF000, 0x0000⟩
  | .jpAddr _ => ⟨0xF000, 0x1000⟩
  | .call _ => ⟨0xF000, 0x2000⟩
  | .seByte _ _ => ⟨0xF000, 0x3000⟩
  | .sneByte _ _ => ⟨0xF000, 0x4000⟩
  | .seReg _ _ => ⟨0xF00F, 0x5000⟩
  | .ldByte _ _ => ⟨0xF000, 0x6000⟩
  | .addByte _ _ => ⟨0xF000, 0x7000⟩
  | .ldReg _ _ => ⟨0xF00F, 0x8000⟩
  | .orReg _ _ => ⟨0xF00F, 0x8001⟩
  | .andReg _ _ => ⟨0xF00F, 0x8002⟩
  | .xorReg _ _ => ⟨0xF00F, 0x8003⟩
  | .addReg _ _ => ⟨0xF00F, 0x8004⟩
  | .subReg _ _ => ⟨0xF00F, 0x8005⟩
  | .shrReg _ _ => ⟨0xF00F, 0x8006⟩
  | .subnReg _ _ => ⟨0xF00F, 0x8007⟩
  | .shlReg _ _ => ⟨0xF00F, 0x800E⟩
  | .sneReg _ _ => ⟨0xF00F, 0x9000⟩
  | .ldIAddr _ => ⟨0xF000, 0xA000⟩
  | .jpV0 _ => ⟨0xF000, 0xB000⟩
  | .rnd _ _ => ⟨0xF000, 0xC000⟩
  | .drw _ _ _ => ⟨0xF000, 0xD000⟩
  | .skp _ => ⟨0xF0FF, 0xE09E⟩
  | .sknp _ => ⟨0xF0FF, 0xE0A1⟩
  | .ldVxDt _ => ⟨0xF0FF, 0xF007⟩
  | .ldVxK _ => ⟨0xF0FF, 0xF00A⟩
  | .ldDtVx _ => ⟨0xF0FF, 0xF015⟩
  | .ldStVx _ => ⟨0xF0FF, 0xF018⟩
  | .addIVx _ => ⟨0xF0FF, 0xF01E⟩
  | .ldFVx _ => ⟨0xF0FF, 0xF029⟩
  | .ldBVx _ => ⟨0xF0FF, 0xF033⟩
  | .ldIndVx _ => ⟨0xF0FF, 0xF055⟩
  | .ldVxInd _ => ⟨0xF0FF, 0xF065⟩
  | .ext00C _ => ⟨0xFFF0, 0x00C0⟩
  | .ext00FB => ⟨0xFFFF, 0x00FB⟩
  | .ext00FC => ⟨0xFFFF, 0x00FC⟩
  | .ext00FD => ⟨0xFFFF, 0x00FD⟩
  | .ext00FE => ⟨0xFFFF, 0x00FE⟩
  | .ext00FF => ⟨0xFFFF, 0x00FF⟩
  | .extDXY0 _ _ => ⟨0xF00F, 0xD000⟩
  | .extFX30 _ => ⟨0xF0FF, 0xF030⟩
  | .extFX75 _ => ⟨0xF0FF, 0xF075⟩
  | .extFX85 _ => ⟨0xF0FF, 0xF085⟩
  | .ban6F _ => ⟨0xFF00, 0x6F00⟩
  | .ban7F _ => ⟨0xFF00, 0x7F00⟩
  | .ban8FY0 _ => ⟨0xFF0F, 0x8F00⟩
  | .banCF _ => ⟨0xFF00, 0xCF00⟩
  | .banFF07 => ⟨0xFFFF, 0xFF07⟩
  | .banFF0A => ⟨0xFFFF, 0xFF0A⟩
  | .banFF65 => ⟨0xFFFF, 0xFF65⟩
  | .ban8FY4 _ => ⟨0xFF0F, 0x8F04⟩
  | .ban8FY6 _ => ⟨0xFF0F, 0x8F06⟩
  | .ban8FYE _ => ⟨0xFF0F, 0x8F0E⟩

/-- The unofficial flag (R70): rows 14, 17, 18, 19 and no other. -/
def Instr.unofficial (i : Instr) : Bool :=
  match i with
  | .xorReg _ _ | .shrReg _ _ | .subnReg _ _ | .shlReg _ _ => true
  | .cls | .ret | .sys _ | .jpAddr _ | .call _ | .seByte _ _ | .sneByte _ _ | .seReg _ _ | .ldByte _ _ | .addByte _ _
  | .ldReg _ _ | .orReg _ _ | .andReg _ _ | .addReg _ _ | .subReg _ _ | .sneReg _ _ | .ldIAddr _ | .jpV0 _ | .rnd _ _
  | .drw _ _ _ | .skp _ | .sknp _ | .ldVxDt _ | .ldVxK _ | .ldDtVx _ | .ldStVx _ | .addIVx _ | .ldFVx _ | .ldBVx _
  | .ldIndVx _ | .ldVxInd _ | .ext00C _ | .ext00FB | .ext00FC | .ext00FD | .ext00FE | .ext00FF | .extDXY0 _ _
  | .extFX30 _ | .extFX75 _ | .extFX85 _ | .ban6F _ | .ban7F _ | .ban8FY0 _ | .banCF _ | .banFF07 | .banFF0A
  | .banFF65 | .ban8FY4 _ | .ban8FY6 _ | .ban8FYE _ => false

/-- The mnemonic and the ordered operand list of a Valid row (R63, R65); a set row has none (R69). -/
def Instr.assembly (i : Instr) : Option (Mnemonic × List Operand) :=
  match i with
  | .cls => some (.cls, [])
  | .ret => some (.ret, [])
  | .sys nnn => some (.sys, [.address nnn])
  | .jpAddr nnn => some (.jp, [.address nnn])
  | .call nnn => some (.call, [.address nnn])
  | .seByte x kk => some (.se, [.register x, .byte kk])
  | .sneByte x kk => some (.sne, [.register x, .byte kk])
  | .seReg x y => some (.se, [.register x, .register y])
  | .ldByte x kk => some (.ld, [.register x, .byte kk])
  | .addByte x kk => some (.add, [.register x, .byte kk])
  | .ldReg x y => some (.ld, [.register x, .register y])
  | .orReg x y => some (.or, [.register x, .register y])
  | .andReg x y => some (.and, [.register x, .register y])
  | .xorReg x y => some (.xor, [.register x, .register y])
  | .addReg x y => some (.add, [.register x, .register y])
  | .subReg x y => some (.sub, [.register x, .register y])
  | .shrReg x y => some (.shr, [.register x, .register y])
  | .subnReg x y => some (.subn, [.register x, .register y])
  | .shlReg x y => some (.shl, [.register x, .register y])
  | .sneReg x y => some (.sne, [.register x, .register y])
  | .ldIAddr nnn => some (.ld, [.indexRegister, .address nnn])
  | .jpV0 nnn => some (.jp, [.v0, .address nnn])
  | .rnd x kk => some (.rnd, [.register x, .byte kk])
  | .drw x y n => some (.drw, [.register x, .register y, .nibble n])
  | .skp x => some (.skp, [.register x])
  | .sknp x => some (.sknp, [.register x])
  | .ldVxDt x => some (.ld, [.register x, .delayTimer])
  | .ldVxK x => some (.ld, [.register x, .keyWait])
  | .ldDtVx x => some (.ld, [.delayTimer, .register x])
  | .ldStVx x => some (.ld, [.soundTimer, .register x])
  | .addIVx x => some (.add, [.indexRegister, .register x])
  | .ldFVx x => some (.ld, [.font, .register x])
  | .ldBVx x => some (.ld, [.bcd, .register x])
  | .ldIndVx x => some (.ld, [.indirectStore, .register x])
  | .ldVxInd x => some (.ld, [.register x, .indirectLoad])
  | .ext00C _ | .ext00FB | .ext00FC | .ext00FD | .ext00FE | .ext00FF | .extDXY0 _ _ | .extFX30 _ | .extFX75 _
  | .extFX85 _ | .ban6F _ | .ban7F _ | .ban8FY0 _ | .banCF _ | .banFF07 | .banFF0A | .banFF65 | .ban8FY4 _ | .ban8FY6 _
  | .ban8FYE _ => none

/-- The decode result record of R72, from the word alone and what the decoder made of it. -/
def decodedRecord (w : Word) (d : Decoded) : DecodedInstruction :=
  match d with
  | .instr i =>
    { word       := w
      valid      := i.rowClass == .valid
      mnemonic   := i.assembly.map Prod.fst
      operands   := (i.assembly.map Prod.snd).getD []
      unofficial := i.unofficial
      banned     := i.rowClass == .banned
      extended   := i.rowClass == .extendedUnsupported }
  | .invalid r _ =>
    { word := w, valid := false, mnemonic := none, operands := [], unofficial := false
      banned := r == .banned, extended := r == .extendedUnsupported }
  | .unclassified _ =>
    { word := w, valid := false, mnemonic := none, operands := [], unofficial := false, banned := false, extended := false }

end Sys2Proof
end

