-- ==== Sys2Proof/Machine/State.lean ====
section
/-! DEFINITION. The machine state as plain data (10_state.md), the reasons a step can stop, and the state after reset
(R24). -/

namespace Sys2Proof.Machine

/-- The error kinds of 60_exceptions.md R171; their codes are `ErrorKind.code`. -/
inductive ErrorKind where
  | invalidInstruction
  | bannedInstruction
  | extendedUnsupported
  | stackOverflow
  | stackUnderflow
  | uninitializedMemoryAccess
  | unsupportedOperandCombination
  | addressOutOfRange
  | sysIgnored
  | unofficialInstruction
  deriving DecidableEq, Repr

/-- The three severities (R172). -/
inductive Severity where
  | informational
  | warning
  | fatal
  deriving DecidableEq, Repr

/-- A log event (R178). `cpu` carries the kind as its code, the calling pc and the fetched word. `oversizedRom` is the
loader's Warning, which is no error kind of the block (70_reset_and_hazards.md R202; log 10). -/
inductive LogEvent where
  | cpu (severity : Severity) (kind : BitVec 4) (pc : Addr) (w : Word)
  | oversizedRom (severity : Severity)
  deriving DecidableEq, Repr

/-- Memory: the cells that differ from their reset contents, as (address, byte), addresses strictly rising (log 7). A cell
that is not listed holds its reset content (20_memory.md R41, 10_state.md R24). -/
abbrev Memory := List Host.Cell

/-- A RewindFrame: the fields R190 lists and no other. `fb` is the framebuffer region's listed cells, `callPc` the
call-site pc, `decoded` the decoded instruction. -/
structure RewindFrame where
  fb            : Memory
  v             : Vector Byte 16
  dt            : Byte
  st            : Byte
  pc            : Addr
  callPc        : Addr
  decoded       : DecodedInstruction
  stack         : List Addr
  sp            : Nat
  waitingForKey : Bool
  spinning      : Bool
  drawFlag      : Bool
  deriving DecidableEq, Repr

/-- The host steps of 70_reset_and_hazards.md R207, the strobes issued together being one entry (60_exceptions.md R184).
Driving `rand_in` is not among them: its byte is the free value `Config.randIn`. -/
inductive HostStep where
  | strobes (cpu st dt : Bool)
  | reset (c : Config)
  | load (bytes : List Byte)
  | keypadIn (levels : Keys)
  | pause (level : Bool)
  | drawAck
  | rewind (n : Nat)
  deriving DecidableEq, Repr

/-- The state of the machine, each field with the rule that names it. -/
structure State where
  /-- `x[0]` to `x[15]` (R10); `vF` is `x[15]` (R11). -/
  v             : Vector Byte 16
  /-- `I` (R12). -/
  i             : Addr
  /-- `pc` (R13). -/
  pc            : Addr
  /-- The delay timer (R14). -/
  dt            : Byte
  /-- The sound timer (R15). -/
  st            : Byte
  /-- `stack[0 .. STACK_DEPTH-1]` (R16). -/
  stack         : List Addr
  /-- The number of valid stack entries (R16). -/
  sp            : Nat
  /-- The keypad snapshot (R17). -/
  keypad        : Keys
  /-- The snapshot of the previous completed `cpu_tick` (R17). -/
  prevKeypad    : Keys
  /-- R18. -/
  waitingForKey : Bool
  /-- R18. -/
  spinning      : Bool
  /-- R18. -/
  drawFlag      : Bool
  /-- R19. -/
  halt          : Bool
  /-- R19; the codes of R171. -/
  faultCause    : BitVec 4
  /-- `M[0 .. 4095]` (R20). -/
  mem           : Memory
  /-- The configuration record (R21). -/
  config        : Config
  /-- The rewind ring, newest frame first (R190). -/
  rewind        : List RewindFrame
  /-- The events emitted so far, oldest first (R178); no rule reads it. -/
  log           : List LogEvent
  /-- The level on the port `keypad_in` (00_scope.md R7). -/
  keypadIn      : Keys
  /-- The level on the port `pause` (R7, R189). -/
  pause         : Bool
  /-- Whether a `load` is legal: after a reset and before the first `cpu_tick` (R202, R207). -/
  loadOpen      : Bool
  /-- The model's own: the host steps still to come, oldest first (log 2). -/
  pending       : List HostStep
  /-- The model's own: how many bytes `rnd` has drawn (log 4). -/
  draws         : Nat
  deriving DecidableEq, Repr

/-- Why the machine stops with a fault. -/
inductive Fault where
  /-- Raised by a `cpu_tick` with `waiting_for_key` = 1 whose word at the pc is not `ld vX, k`: 45_timers_keypad.md R164
  gives the key-wait service for that word only, and holds because nothing writes memory while the CPU waits. Reached only
  in states no run without `rewind` reaches (log 11). Safe: the model stops where the spec gives no step. -/
  | keyWaitWordLost
  deriving DecidableEq, Repr

/-- Why the machine refuses a step. -/
inductive Refusal where
  /-- Raised by an arm of `exec` whose instruction has no meaning yet. Safe. -/
  | notModelled (mnemonic : String)
  /-- Raised by `call` and `ret` on a stack fault under `STACK_FAULT_FATAL` = false, a policy R176 has a model refuse because
  no source gives its post-state; reset refuses the configuration too, so no run reaches it (log 18). Safe. -/
  | stackWarningPolicy
  /-- Raised by `reset(config)` with a configuration that fails R201, which has no reset state (log 13). Safe. -/
  | illegalConfiguration
  /-- Raised by `load` of more than 3584 bytes, which has no defined load (R202, D38; log 13). Safe. -/
  | romTooLong
  /-- Raised by `load` after the first `cpu_tick` of the run (R202, R207; log 13). Safe. -/
  | loadNotLegal
  /-- Raised by `rewind` when `REWIND_DEPTH` = 0, where R207 makes it illegal (log 13). Safe. -/
  | rewindDisabled
  /-- Raised by `rewind(n)` with more frames than the ring holds, which R190 gives no effect (log 12). Safe. -/
  | rewindTooFar
  deriving DecidableEq, Repr

/-- The reset state built from a configuration (R24, R200). The stack's cells are unspecified by the spec: DESIGN CHOICE 0
(log 6, unsafe). The ports' levels, `pending`, `draws` and `log` are the model's choice (logs 2, 3, 4, 9, 16). -/
def State.resetWith (c : Config) : State where
  v             := Vector.replicate 16 0
  i             := 0
  pc            := 0x200
  dt            := 0
  st            := 0
  stack         := List.replicate c.stackDepth 0
  sp            := 0
  keypad        := 0
  prevKeypad    := 0
  waitingForKey := false
  spinning      := false
  drawFlag      := false
  halt          := false
  faultCause    := 0
  mem           := []
  config        := c
  rewind        := []
  log           := []
  keypadIn      := 0
  pause         := false
  loadOpen      := true
  pending       := []
  draws         := 0

/-- The machine right after reset, under the default configuration (00_scope.md R5; log 5). -/
def State.reset : State := State.resetWith Config.default

/-- What a step or a meaning answers. -/
abbrev Result := Host.Outcome State Fault Refusal

end Sys2Proof.Machine
end

