-- ==== Sys2Proof/Machine/Memory.lean ====
section
/-! DEFINITION. The memory array of 20_memory.md: reset contents, the tri-state cell, MemRead and MemWrite, and the
sequences of byte accesses the instructions make. Each function takes `strict`, the value of `STRICT_UNINIT`. An access
that raises answers `.error` with the kind, so a sequence stops at its first failing check and keeps nothing (R85, log 20). -/

namespace Sys2Proof.Machine

/-- `MEM_SIZE` (00_scope.md R4). -/
def memSize : Nat := 4096

/-- `FONT_BASE` (R4). -/
def fontBase : Nat := 0x050

/-- `FB_BASE` (R4); the framebuffer reaches to the top of memory. -/
def fbBase : Nat := 0xF00

/-- `PROG_BASE` (R4). -/
def progBase : Nat := 0x200

/-- The font table, 16 glyphs of 5 bytes (R55). -/
def fontTable : List Byte :=
  [0xF0, 0x90, 0x90, 0x90, 0xF0] ++ [0x20, 0x60, 0x20, 0x20, 0x70]
  ++ ([0xF0, 0x10, 0xF0, 0x80, 0xF0] ++ [0xF0, 0x10, 0xF0, 0x10, 0xF0])
  ++ ([0x90, 0x90, 0xF0, 0x10, 0x10] ++ [0xF0, 0x80, 0xF0, 0x10, 0xF0])
  ++ ([0xF0, 0x80, 0xF0, 0x90, 0xF0] ++ [0xF0, 0x10, 0x20, 0x40, 0x40])
  ++ ([0xF0, 0x90, 0xF0, 0x90, 0xF0] ++ [0xF0, 0x90, 0xF0, 0x10, 0xF0])
  ++ ([0xF0, 0x90, 0xF0, 0x90, 0x90] ++ [0xE0, 0x90, 0xE0, 0x90, 0xE0])
  ++ ([0xF0, 0x80, 0x80, 0x80, 0xF0] ++ [0xE0, 0x90, 0x90, 0x90, 0xE0])
  ++ ([0xF0, 0x80, 0xF0, 0x80, 0xF0] ++ [0xF0, 0x80, 0xF0, 0x80, 0x80])

/-- What a cell holds after reset, and so what an address that is not listed reads as: the font, the framebuffer's zero
bytes, and elsewhere Unset under `STRICT_UNINIT`, else byte 0 (10_state.md R24). `none` is Unset. -/
def resetCell (strict : Bool) (a : Nat) : Option Byte :=
  if fontBase ≤ a ∧ a < fontBase + 80 then fontTable[a - fontBase]?
  else if fbBase ≤ a then some 0
  else if strict then none
  else some 0

/-- Cell `M[a]`, `none` for Unset (R20, R41). -/
def Memory.cell (strict : Bool) (m : Memory) (a : Nat) : Option Byte :=
  match m with
  | [] => resetCell strict a
  | (b, w) :: rest => if a = b then some w else Memory.cell strict rest a

/-- Cell `a` set to `v`, the list kept in canonical form. -/
def Memory.set (strict : Bool) (m : Memory) (a : Nat) (v : Byte) : Memory :=
  match m with
  | [] => if resetCell strict a = some v then [] else [(a, v)]
  | (b, w) :: rest =>
    if a < b then (if resetCell strict a = some v then (b, w) :: rest else (a, v) :: (b, w) :: rest)
    else if a = b then (if resetCell strict a = some v then rest else (a, v) :: rest)
    else (b, w) :: Memory.set strict rest a v

/-- The addresses are at least `lo`, strictly rising, in the address space, and no entry is what its address reads as
unlisted. -/
def Memory.wfFrom (strict : Bool) (lo : Nat) (m : Memory) : Bool :=
  match m with
  | [] => true
  | (a, v) :: rest =>
    decide (lo ≤ a) && decide (a < memSize) && resetCell strict a != some v && Memory.wfFrom strict (a + 1) rest

/-- The canonical form. -/
def Memory.wf (strict : Bool) (m : Memory) : Bool := Memory.wfFrom strict 0 m

/-- `MemRead(addr, 1)` (R42): the range check, then the Unset check. -/
def Memory.read (strict : Bool) (m : Memory) (a : Nat) : Except ErrorKind Byte :=
  if a > 0xFFF then .error .addressOutOfRange
  else
    match m.cell strict a with
    | none => .error .uninitializedMemoryAccess
    | some b => .ok b

/-- `MemWrite(addr, 1, v)` (R43). -/
def Memory.write (strict : Bool) (m : Memory) (a : Nat) (v : Byte) : Except ErrorKind Memory :=
  if a > 0xFFF then .error .addressOutOfRange else .ok (m.set strict a v)

/-- `MemRead(a, 2)` (R45): the byte at `a` is the high byte, each byte with its own checks, the high byte's first. -/
def Memory.readWord (strict : Bool) (m : Memory) (a : Nat) : Except ErrorKind Word :=
  match m.read strict a with
  | .error k => .error k
  | .ok hi =>
    match m.read strict (a + 1) with
    | .error k => .error k
    | .ok lo => .ok (wordOfBytes hi lo)

/-- `n` bytes from `a` up, in ascending order. -/
def Memory.readBlock (strict : Bool) (m : Memory) (a n : Nat) : Except ErrorKind (List Byte) :=
  match n with
  | 0 => .ok []
  | n + 1 =>
    match m.read strict a with
    | .error k => .error k
    | .ok b =>
      match Memory.readBlock strict m (a + 1) n with
      | .error k => .error k
      | .ok bs => .ok (b :: bs)

/-- The bytes stored from `a` up, in ascending order. -/
def Memory.writeBlock (strict : Bool) (m : Memory) (a : Nat) (bs : List Byte) : Except ErrorKind Memory :=
  match bs with
  | [] => .ok m
  | b :: rest =>
    match m.write strict a b with
    | .error k => .error k
    | .ok m' => Memory.writeBlock strict m' (a + 1) rest

/-- `n` cells from `a` up set to byte 0 (`cls`, 44_display.md R150). -/
def Memory.clear (strict : Bool) (m : Memory) (a n : Nat) : Memory :=
  match n with
  | 0 => m
  | n + 1 => Memory.clear strict (m.set strict a 0) (a + 1) n

/-- The bytes of an image set from `a` up (`load`, 70_reset_and_hazards.md R202). -/
def Memory.setBlock (strict : Bool) (m : Memory) (a : Nat) (bs : List Byte) : Memory :=
  match bs with
  | [] => m
  | b :: rest => Memory.setBlock strict (m.set strict a b) (a + 1) rest

/-- The listed cells of the framebuffer region (a RewindFrame's copy, 60_exceptions.md R190). -/
def Memory.framebuffer (m : Memory) : Memory := m.filter (fun c => decide (fbBase ≤ c.1))

/-- The framebuffer region replaced by a frame's copy, the rest of memory kept (R190). -/
def Memory.restoreFramebuffer (m fb : Memory) : Memory := m.filter (fun c => decide (c.1 < fbBase)) ++ fb

end Sys2Proof.Machine
end

