-- ==== Sys2Proof/Machine/Ops.lean ====
section
/-! DEFINITION. The named operations every meaning is written over: registers, the pc, the call stack, events, and the
Fatal entry (60_exceptions.md R173), which is this machine's one way to take an exception; `State.resetBlock` is the
one way back (R175). -/

namespace Sys2Proof.Machine

-- Registers (10_state.md R10): none is hardwired, every register reads back what was written.

/-- `x[x]`. -/
def State.reg (s : State) (x : RegNum) : Byte := s.v[x.toNat]'x.isLt

/-- `x[x] <- b`. -/
def State.setReg (s : State) (x : RegNum) (b : Byte) : State := { s with v := s.v.set x.toNat b x.isLt }

/-- `vF`, the flag (R11). -/
def vF : RegNum := 0xF

/-- A flag value: 1 or 0. -/
def flagByte (b : Bool) : Byte := if b then 1 else 0

/-- The two writes of a flag-setting instruction: `x[X] <- result`, then `x[15] <- flag` (41_arithmetic.md R112). -/
def State.setRegFlag (s : State) (x : RegNum) (result : Byte) (flag : Bool) : State :=
  (s.setReg x result).setReg vF (flagByte flag)

/-- `x[k] <- bs[k - from]` for consecutive registers from number `k` up (43_memory_index.md R145). -/
def State.setRegs (s : State) (k : Nat) (bs : List Byte) : State :=
  match bs with
  | [] => s
  | b :: rest => State.setRegs (s.setReg (BitVec.ofNat 4 k) b) (k + 1) rest

/-- `x[0] .. x[x]`, the registers of a block transfer (R144, R145). -/
def State.regsUpTo (s : State) (x : RegNum) : List Byte :=
  (List.range (x.toNat + 1)).map (fun k => s.reg (BitVec.ofNat 4 k))

-- The program counter (R13, 40_decode_dispatch.md R84): 12 bits, so every sum wraps modulo 4096.

/-- `pc <- target`. -/
def State.goto (s : State) (target : Addr) : State := { s with pc := target }

/-- The default advance. -/
def State.advance (s : State) : State := s.goto (s.pc + 2)

/-- The advance of a skip: `pc + 4` when taken. -/
def State.skipIf (s : State) (taken : Bool) : State := s.goto (if taken then s.pc + 4 else s.pc + 2)

/-- A jump of the mnemonic `jp`, with spin detection: `spinning` is only ever set (42_control_flow.md R129). -/
def State.jump (s : State) (target : Addr) : State :=
  { s with pc := target, spinning := s.spinning || target == s.pc }

-- Cells.

/-- `M[a]`, `none` for Unset. -/
def State.cell (s : State) (a : Nat) : Option Byte := s.mem.cell s.config.strictUninit a

/-- `MemRead(addr, 1)` at this state. -/
def State.read (s : State) (a : Nat) : Except ErrorKind Byte := s.mem.read s.config.strictUninit a

/-- The fetch, `MemRead(pc, 2)` (40_decode_dispatch.md R81). -/
def State.fetch (s : State) : Except ErrorKind Word := s.mem.readWord s.config.strictUninit s.pc.toNat

-- The call stack (10_state.md R16).

/-- `stack[k]`; outside the array, a free value no run reads (log 6). -/
def State.stackCell (s : State) (k : Nat) : Addr := s.stack.getD k (Config.absentStackCell k)

/-- The push of `call`: `stack[sp] <- a`, `sp <- sp + 1` (42_control_flow.md R123). -/
def State.push (s : State) (a : Addr) : State := { s with stack := s.stack.set s.sp a, sp := s.sp + 1 }

/-- The pop of `ret`: only `sp` moves (R124, D39). -/
def State.pop (s : State) : State := { s with sp := s.sp - 1 }

/-- The host's stack accessor: the first `sp` entries (R16, D39). -/
def State.validStack (s : State) : List Addr := s.stack.take s.sp

-- Events (60_exceptions.md R171, R178).

/-- The codes of R171. -/
def ErrorKind.code (k : ErrorKind) : BitVec 4 :=
  match k with
  | .invalidInstruction => 1
  | .bannedInstruction => 2
  | .extendedUnsupported => 3
  | .stackOverflow => 4
  | .stackUnderflow => 5
  | .uninitializedMemoryAccess => 6
  | .unsupportedOperandCombination => 7
  | .addressOutOfRange => 8
  | .sysIgnored => 9
  | .unofficialInstruction => 10

/-- One event emitted. -/
def State.emit (s : State) (e : LogEvent) : State := { s with log := s.log ++ [e] }

/-- `log(severity, kind)` for the word `w` at this pc. -/
def State.logEvent (s : State) (sev : Severity) (k : ErrorKind) (w : Word) : State := s.emit (.cpu sev k.code s.pc w)

/-- The optional event of an unofficial instruction (40_decode_dispatch.md R86). -/
def State.logUnofficial (s : State) (w : Word) : State :=
  match s.config.unofficialLog with
  | .none => s
  | .info => s.logEvent .informational .unofficialInstruction w
  | .warning => s.logEvent .warning .unofficialInstruction w

/-- The Fatal entry (60_exceptions.md R173): `halt`, `fault_cause` and one event, and nothing else. It is applied to the
state the instruction found, so whatever the instruction would have written is discarded. -/
def State.fatal (s : State) (k : ErrorKind) (w : Word) : State :=
  { s with halt := true, faultCause := k.code, log := s.log ++ [.cpu .fatal k.code s.pc w] }

/-- `raise Fatal(kind)` for the word `w`: a next state, the halted one (log 1). -/
def raise (k : ErrorKind) (w : Word) (s : State) : Result := .next (s.fatal k w)

/-- A stack fault (R176): the Fatal entry; the Warning policy is refused (log 18). -/
def raiseStackFault (k : ErrorKind) (w : Word) (s : State) : Result :=
  if s.config.stackFaultFatal then raise k w s else .refused .stackWarningPolicy

/-- The return from the halted state, by `reset(config)` alone (R175, 70_reset_and_hazards.md R200): the whole state
replaced. The ports' levels, the host's queue and log, and the number of draws are not the block's state and stay (log 17). -/
def State.resetBlock (s : State) (c : Config) : State :=
  { State.resetWith c with
    keypadIn := s.keypadIn, pause := s.pause, pending := s.pending, draws := s.draws, log := s.log }

-- Stores and loads of whole instructions.

/-- Bytes stored from `I` up, then the default advance; a failing check raises and nothing is stored (R85). -/
def State.storeAtI (s : State) (w : Word) (bs : List Byte) : Result :=
  match s.mem.writeBlock s.config.strictUninit s.i.toNat bs with
  | .error k => raise k w s
  | .ok m => .next { s with mem := m }.advance

/-- `n` bytes loaded from `I` up into `x[0]` and on, then the default advance; a failing check raises and no register is
written (R145). -/
def State.loadAtI (s : State) (w : Word) (n : Nat) : Result :=
  match s.mem.readBlock s.config.strictUninit s.i.toNat n with
  | .error k => raise k w s
  | .ok bs => .next (s.setRegs 0 bs).advance

end Sys2Proof.Machine
end

