-- ==== Sys2Proof/Machine/Operands.lean ====
section
/-! DEFINITION. The operand forms: what a register operand selects beyond its own byte. -/

namespace Sys2Proof.Machine

/-- The effective address `I + k`, a natural number without wrap (43_memory_index.md R146). -/
def State.effective (s : State) (k : Nat) : Nat := s.i.toNat + k

/-- The target of `jp v0, addr`: `(nnn + x[0]) mod 4096` (42_control_flow.md R122). -/
def State.v0Target (s : State) (nnn : Addr) : Addr := nnn + (s.reg 0).setWidth 12

/-- The low nibble of a register, which selects a key or a glyph (R142, 45_timers_keypad.md R165). -/
def State.lowNibble (s : State) (x : RegNum) : Nibble := (s.reg x).extractLsb' 0 4

/-- `key[x[X] & 0x0F]` of this tick's snapshot (R165, R166). -/
def State.keyDown (s : State) (x : RegNum) : Bool := s.keypad.getLsbD (s.lowNibble x).toNat

/-- The address of glyph `x[X] & 0x0F` (43_memory_index.md R142, 20_memory.md R55). -/
def State.glyphAddr (s : State) (x : RegNum) : Addr := BitVec.ofNat 12 (fontBase + 5 * (s.lowNibble x).toNat)

/-- The register a shift reads: `x[Y]` in legacy mode, `x[X]` in modern mode (41_arithmetic.md R108, R110). -/
def State.shiftSource (s : State) (x y : RegNum) : Byte :=
  match s.config.shiftMode with
  | .legacy => s.reg y
  | .modern => s.reg x

/-- The three decimal digits of a byte, hundreds first (43_memory_index.md R143). -/
def bcdDigits (b : Byte) : List Byte :=
  [BitVec.ofNat 8 (b.toNat / 100), BitVec.ofNat 8 (b.toNat / 10 % 10), BitVec.ofNat 8 (b.toNat % 10)]

/-- The keys that are down now and were up at the previous tick (45_timers_keypad.md R164). -/
def State.rise (s : State) : Keys := s.keypad &&& ~~~s.prevKeypad

/-- The lowest index of a set bit, or none (R164, D31). -/
def lowestSet (k : Keys) : Option Nat := (List.range 16).find? (fun n => k.getLsbD n)

end Sys2Proof.Machine
end

