-- ==== Sys2Proof/Machine/Flags.lean ====
section
/-! DEFINITION. Results and flags of the arithmetic family, each computed exactly on naturals and narrowed at the end; the
flag comes from the untruncated values (41_arithmetic.md R113). -/

namespace Sys2Proof.Machine

/-- `(a + b) mod 256` (R102, R106). -/
def addResult (a b : Byte) : Byte := BitVec.ofNat 8 (a.toNat + b.toNat)

/-- Carry: the exact sum exceeds 255 (R106). -/
def addCarry (a b : Byte) : Bool := decide (a.toNat + b.toNat > 255)

/-- `(a - b) mod 256`, that is `a - b + 256` when `a < b` (R107). -/
def subResult (a b : Byte) : Byte := BitVec.ofNat 8 (a.toNat + 256 - b.toNat)

/-- Not-borrow: minuend at least subtrahend (R107, R109). -/
def noBorrow (a b : Byte) : Bool := decide (a.toNat ≥ b.toNat)

/-- `src >> 1`, bit 7 becomes 0 (R108). -/
def shrResult (src : Byte) : Byte := BitVec.ofNat 8 (src.toNat / 2)

/-- The bit `shr` shifts out, bit 0 (R108). -/
def shrOut (src : Byte) : Bool := src.getLsbD 0

/-- `(src << 1) mod 256`, bit 0 becomes 0 (R110). -/
def shlResult (src : Byte) : Byte := BitVec.ofNat 8 (src.toNat * 2)

/-- The bit `shl` shifts out, bit 7 (R110). -/
def shlOut (src : Byte) : Bool := src.getLsbD 7

/-- `(I + x[X]) mod 4096` (43_memory_index.md R141). -/
def addIResult (i : Addr) (b : Byte) : Addr := BitVec.ofNat 12 (i.toNat + b.toNat)

/-- The sum overflows into bit 12 (R141). -/
def addIOverflow (i : Addr) (b : Byte) : Bool := decide (i.toNat + b.toNat > 0xFFF)

end Sys2Proof.Machine
end

