-- ==== Sys2Proof/Machine/Arithmetic.lean ====
section
/-! DEFINITION. 41_arithmetic.md: register loads, arithmetic, logic, shifts, random. All take the default next pc, none
can raise. -/

namespace Sys2Proof.Machine

/-- R100. -/
def execLdByte (x : RegNum) (kk : Byte) (s : State) : Result := .next (s.setReg x kk).advance

/-- R101. -/
def execLdReg (x y : RegNum) (s : State) : Result := .next (s.setReg x (s.reg y)).advance

/-- R102: `vF` is not written. -/
def execAddByte (x : RegNum) (kk : Byte) (s : State) : Result := .next (s.setReg x (addResult (s.reg x) kk)).advance

/-- R103. -/
def execOrReg (x y : RegNum) (s : State) : Result := .next (s.setReg x (s.reg x ||| s.reg y)).advance

/-- R104. -/
def execAndReg (x y : RegNum) (s : State) : Result := .next (s.setReg x (s.reg x &&& s.reg y)).advance

/-- R105; unofficial (R86). -/
def execXorReg (x y : RegNum) (s : State) : Result :=
  .next ((s.logUnofficial (encode (.xorReg x y))).setReg x (s.reg x ^^^ s.reg y)).advance

/-- R106, R112. -/
def execAddReg (x y : RegNum) (s : State) : Result :=
  .next (s.setRegFlag x (addResult (s.reg x) (s.reg y)) (addCarry (s.reg x) (s.reg y))).advance

/-- R107, R112. -/
def execSubReg (x y : RegNum) (s : State) : Result :=
  .next (s.setRegFlag x (subResult (s.reg x) (s.reg y)) (noBorrow (s.reg x) (s.reg y))).advance

/-- R109, R112; unofficial (R86). -/
def execSubnReg (x y : RegNum) (s : State) : Result :=
  .next ((s.logUnofficial (encode (.subnReg x y))).setRegFlag x
    (subResult (s.reg y) (s.reg x)) (noBorrow (s.reg y) (s.reg x))).advance

/-- R108, R112; unofficial (R86). -/
def execShrReg (x y : RegNum) (s : State) : Result :=
  .next ((s.logUnofficial (encode (.shrReg x y))).setRegFlag x
    (shrResult (s.shiftSource x y)) (shrOut (s.shiftSource x y))).advance

/-- R110, R112; unofficial (R86). -/
def execShlReg (x y : RegNum) (s : State) : Result :=
  .next ((s.logUnofficial (encode (.shlReg x y))).setRegFlag x
    (shlResult (s.shiftSource x y)) (shlOut (s.shiftSource x y))).advance

/-- R111: the byte drawn is a free value, fresh each execution (log 4). -/
def execRnd (x : RegNum) (kk : Byte) (s : State) : Result :=
  .next ({ s with draws := s.draws + 1 }.setReg x (Config.randIn s.draws &&& kk)).advance

end Sys2Proof.Machine
end

