-- ==== Sys2Proof/Machine/Control.lean ====
section
/-! DEFINITION. 42_control_flow.md: `sys`, jumps, call and return, the compare skips. -/

namespace Sys2Proof.Machine

/-- R120: ignored, one Warning. -/
def execSys (nnn : Addr) (s : State) : Result := .next (s.logEvent .warning .sysIgnored (encode (.sys nnn))).advance

/-- R121, R129. -/
def execJpAddr (nnn : Addr) (s : State) : Result := .next (s.jump nnn)

/-- R122, R129. -/
def execJpV0 (nnn : Addr) (s : State) : Result := .next (s.jump (s.v0Target nnn))

/-- R123: the return address is the address after the `call`. -/
def execCall (nnn : Addr) (s : State) : Result :=
  if s.sp ≥ s.config.stackDepth then raiseStackFault .stackOverflow (encode (.call nnn)) s
  else .next ((s.push (s.pc + 2)).goto nnn)

/-- R124. -/
def execRet (s : State) : Result :=
  if s.sp = 0 then raiseStackFault .stackUnderflow (encode .ret) s
  else .next (s.pop.goto (s.stackCell (s.sp - 1)))

/-- R125. -/
def execSeByte (x : RegNum) (kk : Byte) (s : State) : Result := .next (s.skipIf (s.reg x == kk))

/-- R126. -/
def execSneByte (x : RegNum) (kk : Byte) (s : State) : Result := .next (s.skipIf (s.reg x != kk))

/-- R127. -/
def execSeReg (x y : RegNum) (s : State) : Result := .next (s.skipIf (s.reg x == s.reg y))

/-- R128. -/
def execSneReg (x y : RegNum) (s : State) : Result := .next (s.skipIf (s.reg x != s.reg y))

end Sys2Proof.Machine
end

