-- ==== Sys2Proof/Machine/Display.lean ====
section
/-! DEFINITION. 44_display.md: `cls`, `drw`, and the framebuffer's layout (20_memory.md R54). -/

namespace Sys2Proof.Machine

/-- The address of byte column `bx` of pixel row `y` (R54). -/
def fbAddr (y bx : Nat) : Nat := fbBase + 8 * y + bx

/-- Pixel `(px, py)`: bit `7 - (px mod 8)` of its byte, 1 when lit (R54). A framebuffer cell is never Unset. -/
def Memory.pixel (strict : Bool) (m : Memory) (px py : Nat) : Bool :=
  ((m.cell strict (fbAddr py (px / 8))).getD 0).getLsbD (7 - px % 8)

/-- Pixel `(px, py)` of a state's framebuffer. -/
def State.pixel (s : State) (px py : Nat) : Bool := s.mem.pixel s.config.strictUninit px py

/-- Where a sprite starts: byte column `(vx / 8) mod 8`, sub-byte shift `vx mod 8`, pixel row `vy mod 32` (R151). -/
structure SpritePos where
  bx : Nat
  sh : Nat
  y0 : Nat
  deriving DecidableEq, Repr

/-- The position `drw` computes from its two registers (R151). -/
def spritePos (vx vy : Byte) : SpritePos := ⟨vx.toNat / 8 % 8, vx.toNat % 8, vy.toNat % 32⟩

/-- The part of a sprite row in the left byte: `row >> s` (R151). -/
def maskLeft (row : Byte) (sh : Nat) : Byte := row >>> sh

/-- The part in the right byte: `(row << (8 - s)) mod 256`, 0 when `s` = 0 (R151). -/
def maskRight (row : Byte) (sh : Nat) : Byte := if sh = 0 then 0 else row <<< (8 - sh)

/-- One framebuffer byte XORed with a mask, and whether a lit pixel was turned off: `((new ^ old) & old) != 0` (R151). -/
def xorByte (strict : Bool) (m : Memory) (a : Nat) (mask : Byte) : Except ErrorKind (Memory × Bool) :=
  match m.read strict a with
  | .error k => .error k
  | .ok old =>
    match m.write strict a (old ^^^ mask) with
    | .error k => .error k
    | .ok m' => .ok (m', ((old ^^^ mask) ^^^ old) &&& old != 0)

/-- One sprite row XORed onto pixel row `y`: its left byte, and where `s` is not 0 its right byte, which wraps inside the
same pixel row (R151). -/
def drawRow (strict : Bool) (m : Memory) (p : SpritePos) (y : Nat) (row : Byte) : Except ErrorKind (Memory × Bool) :=
  match xorByte strict m (fbAddr y p.bx) (maskLeft row p.sh) with
  | .error k => .error k
  | .ok (m1, c1) =>
    if p.sh = 0 then .ok (m1, c1)
    else
      match xorByte strict m1 (fbAddr y ((p.bx + 1) % 8)) (maskRight row p.sh) with
      | .error k => .error k
      | .ok (m2, c2) => .ok (m2, c1 || c2)

/-- The commit phase: `n` rows from row number `r` on, each read from `base + r` when it is drawn, onto pixel row
`(y0 + r) mod 32`; the collisions are OR-accumulated (R151). -/
def drawRows (strict : Bool) (m : Memory) (base : Nat) (p : SpritePos) (r n : Nat) (coll : Bool) :
    Except ErrorKind (Memory × Bool) :=
  match n with
  | 0 => .ok (m, coll)
  | n + 1 =>
    match m.read strict (base + r) with
    | .error k => .error k
    | .ok row =>
      match drawRow strict m p ((p.y0 + r) % 32) row with
      | .error k => .error k
      | .ok (m', c) => drawRows strict m' base p (r + 1) n (coll || c)

/-- R150: `vF` is not written. -/
def execCls (s : State) : Result :=
  .next { s with mem := s.mem.clear s.config.strictUninit fbBase 256, drawFlag := true }.advance

/-- R151: the check phase over the sprite's cells, then the commit phase, then `vF` and `draw_flag`. -/
def execDrw (x y : RegNum) (n : Nibble) (s : State) : Result :=
  match s.mem.readBlock s.config.strictUninit s.i.toNat n.toNat with
  | .error k => raise k (encode (.drw x y n)) s
  | .ok _ =>
    match drawRows s.config.strictUninit s.mem s.i.toNat (spritePos (s.reg x) (s.reg y)) 0 n.toNat false with
    | .error k => raise k (encode (.drw x y n)) s
    | .ok (m, coll) => .next ({ s with mem := m, drawFlag := true }.setReg vF (flagByte coll)).advance

end Sys2Proof.Machine
end

