-- ==== Sys2Proof/Machine/Index.lean ====
section
/-! DEFINITION. 43_memory_index.md: the index register, stores and loads through it. `I` is changed by the first three
alone (R146). -/

namespace Sys2Proof.Machine

/-- R140. -/
def execLdIAddr (nnn : Addr) (s : State) : Result := .next { s with i := nnn }.advance

/-- R141: `vF` is written only under `ADD_I_VF`, after `x[X]` is read. -/
def execAddIVx (x : RegNum) (s : State) : Result :=
  let summed : State := { s with i := addIResult s.i (s.reg x) }
  .next (if s.config.addIVf then summed.setReg vF (flagByte (addIOverflow s.i (s.reg x))) else summed).advance

/-- R142. -/
def execLdFVx (x : RegNum) (s : State) : Result := .next { s with i := s.glyphAddr x }.advance

/-- R143. -/
def execLdBVx (x : RegNum) (s : State) : Result := s.storeAtI (encode (.ldBVx x)) (bcdDigits (s.reg x))

/-- R144. -/
def execLdIndVx (x : RegNum) (s : State) : Result := s.storeAtI (encode (.ldIndVx x)) (s.regsUpTo x)

/-- R145. -/
def execLdVxInd (x : RegNum) (s : State) : Result := s.loadAtI (encode (.ldVxInd x)) (x.toNat + 1)

end Sys2Proof.Machine
end

