-- ==== Sys2Proof/Machine/Invalid.lean ====
section
/-! DEFINITION. The template rows of the two classification sets (30_encoding.md R66, R67) and Unclassified words, as they
execute: 40_decode_dispatch.md R88, R89. -/

namespace Sys2Proof.Machine

/-- The error kind of a Classified-invalid word (R89). -/
def reasonKind (r : InvalidReason) : ErrorKind :=
  match r with
  | .extendedUnsupported => .extendedUnsupported
  | .banned => .bannedInstruction

/-- R89: no handler runs, the pc stays at the word. -/
def execInvalid (r : InvalidReason) (w : Word) (s : State) : Result := raise (reasonKind r) w s

/-- R88: a Warning and the default advance, or Fatal under `INVALID_FATAL`. -/
def execUnclassified (w : Word) (s : State) : Result :=
  if s.config.invalidFatal then raise .invalidInstruction w s
  else .next (s.logEvent .warning .invalidInstruction w).advance

/-- `00C.` (R89). -/
def execExt00C (n : Nibble) (s : State) : Result := execInvalid .extendedUnsupported (encode (.ext00C n)) s

/-- `00FB` (R89). -/
def execExt00FB (s : State) : Result := execInvalid .extendedUnsupported (encode .ext00FB) s

/-- `00FC` (R89). -/
def execExt00FC (s : State) : Result := execInvalid .extendedUnsupported (encode .ext00FC) s

/-- `00FD` (R89). -/
def execExt00FD (s : State) : Result := execInvalid .extendedUnsupported (encode .ext00FD) s

/-- `00FE` (R89). -/
def execExt00FE (s : State) : Result := execInvalid .extendedUnsupported (encode .ext00FE) s

/-- `00FF` (R89). -/
def execExt00FF (s : State) : Result := execInvalid .extendedUnsupported (encode .ext00FF) s

/-- `D..0` (R89). -/
def execExtDXY0 (x y : RegNum) (s : State) : Result := execInvalid .extendedUnsupported (encode (.extDXY0 x y)) s

/-- `F.30` (R89). -/
def execExtFX30 (x : RegNum) (s : State) : Result := execInvalid .extendedUnsupported (encode (.extFX30 x)) s

/-- `F.75` (R89). -/
def execExtFX75 (x : RegNum) (s : State) : Result := execInvalid .extendedUnsupported (encode (.extFX75 x)) s

/-- `F.85` (R89). -/
def execExtFX85 (x : RegNum) (s : State) : Result := execInvalid .extendedUnsupported (encode (.extFX85 x)) s

/-- `6F..` (R89). -/
def execBan6F (kk : Byte) (s : State) : Result := execInvalid .banned (encode (.ban6F kk)) s

/-- `7F..` (R89). -/
def execBan7F (kk : Byte) (s : State) : Result := execInvalid .banned (encode (.ban7F kk)) s

/-- `8F.0` (R89). -/
def execBan8FY0 (y : RegNum) (s : State) : Result := execInvalid .banned (encode (.ban8FY0 y)) s

/-- `CF..` (R89). -/
def execBanCF (kk : Byte) (s : State) : Result := execInvalid .banned (encode (.banCF kk)) s

/-- `FF07` (R89). -/
def execBanFF07 (s : State) : Result := execInvalid .banned (encode .banFF07) s

/-- `FF0A` (R89). -/
def execBanFF0A (s : State) : Result := execInvalid .banned (encode .banFF0A) s

/-- `FF65` (R89). -/
def execBanFF65 (s : State) : Result := execInvalid .banned (encode .banFF65) s

/-- `8F.4` (R89). -/
def execBan8FY4 (y : RegNum) (s : State) : Result := execInvalid .banned (encode (.ban8FY4 y)) s

/-- `8F.6` (R89). -/
def execBan8FY6 (y : RegNum) (s : State) : Result := execInvalid .banned (encode (.ban8FY6 y)) s

/-- `8F.E` (R89). -/
def execBan8FYE (y : RegNum) (s : State) : Result := execInvalid .banned (encode (.ban8FYE y)) s

end Sys2Proof.Machine
end

