-- ==== Sys2Proof/Machine/TimersKeypad.lean ====
section
/-! DEFINITION. 45_timers_keypad.md: timer moves, the key-wait instruction, the keypad skips. -/

namespace Sys2Proof.Machine

/-- R160. -/
def execLdVxDt (x : RegNum) (s : State) : Result := .next (s.setReg x s.dt).advance

/-- R161. -/
def execLdDtVx (x : RegNum) (s : State) : Result := .next { s with dt := s.reg x }.advance

/-- R162. -/
def execLdStVx (x : RegNum) (s : State) : Result := .next { s with st := s.reg x }.advance

/-- R163, the tick that issues the wait: the pc stays, no register is written, no edge is looked for. -/
def keyWaitIssue (s : State) : State := { s with waitingForKey := true }

/-- R164, the key-wait service: the lowest rising key ends the wait. -/
def keyWaitService (x : RegNum) (s : State) : State :=
  match lowestSet s.rise with
  | none => s
  | some k => ({ s with waitingForKey := false }.setReg x (BitVec.ofNat 8 k)).advance

/-- `ld vX, k`: R163 when it is issued, R164 on every later tick while `waiting_for_key` = 1. -/
def execLdVxK (x : RegNum) (s : State) : Result :=
  if s.waitingForKey then .next (keyWaitService x s) else .next (keyWaitIssue s)

/-- R165: level, not edge. -/
def execSkp (x : RegNum) (s : State) : Result := .next (s.skipIf (s.keyDown x))

/-- R166. -/
def execSknp (x : RegNum) (s : State) : Result := .next (s.skipIf (!s.keyDown x))

end Sys2Proof.Machine
end

