-- ==== Sys2Proof/Machine/Dispatch.lean ====
section
/-! DEFINITION. The dispatch mux (40_decode_dispatch.md R83), keyed by the row of the opcode table: one handler a row. -/

namespace Sys2Proof.Machine

def exec (i : Instr) (s : State) : Host.Outcome State Fault Refusal :=
  match i with
  | .cls => Sys2Proof.Machine.execCls s
  | .ret => Sys2Proof.Machine.execRet s
  | .sys nnn => Sys2Proof.Machine.execSys nnn s
  | .jpAddr nnn => Sys2Proof.Machine.execJpAddr nnn s
  | .call nnn => Sys2Proof.Machine.execCall nnn s
  | .seByte x kk => Sys2Proof.Machine.execSeByte x kk s
  | .sneByte x kk => Sys2Proof.Machine.execSneByte x kk s
  | .seReg x y => Sys2Proof.Machine.execSeReg x y s
  | .ldByte x kk => Sys2Proof.Machine.execLdByte x kk s
  | .addByte x kk => Sys2Proof.Machine.execAddByte x kk s
  | .ldReg x y => Sys2Proof.Machine.execLdReg x y s
  | .orReg x y => Sys2Proof.Machine.execOrReg x y s
  | .andReg x y => Sys2Proof.Machine.execAndReg x y s
  | .xorReg x y => Sys2Proof.Machine.execXorReg x y s
  | .addReg x y => Sys2Proof.Machine.execAddReg x y s
  | .subReg x y => Sys2Proof.Machine.execSubReg x y s
  | .shrReg x y => Sys2Proof.Machine.execShrReg x y s
  | .subnReg x y => Sys2Proof.Machine.execSubnReg x y s
  | .shlReg x y => Sys2Proof.Machine.execShlReg x y s
  | .sneReg x y => Sys2Proof.Machine.execSneReg x y s
  | .ldIAddr nnn => Sys2Proof.Machine.execLdIAddr nnn s
  | .jpV0 nnn => Sys2Proof.Machine.execJpV0 nnn s
  | .rnd x kk => Sys2Proof.Machine.execRnd x kk s
  | .drw x y n => Sys2Proof.Machine.execDrw x y n s
  | .skp x => Sys2Proof.Machine.execSkp x s
  | .sknp x => Sys2Proof.Machine.execSknp x s
  | .ldVxDt x => Sys2Proof.Machine.execLdVxDt x s
  | .ldVxK x => Sys2Proof.Machine.execLdVxK x s
  | .ldDtVx x => Sys2Proof.Machine.execLdDtVx x s
  | .ldStVx x => Sys2Proof.Machine.execLdStVx x s
  | .addIVx x => Sys2Proof.Machine.execAddIVx x s
  | .ldFVx x => Sys2Proof.Machine.execLdFVx x s
  | .ldBVx x => Sys2Proof.Machine.execLdBVx x s
  | .ldIndVx x => Sys2Proof.Machine.execLdIndVx x s
  | .ldVxInd x => Sys2Proof.Machine.execLdVxInd x s
  | .ext00C n => Sys2Proof.Machine.execExt00C n s
  | .ext00FB => Sys2Proof.Machine.execExt00FB s
  | .ext00FC => Sys2Proof.Machine.execExt00FC s
  | .ext00FD => Sys2Proof.Machine.execExt00FD s
  | .ext00FE => Sys2Proof.Machine.execExt00FE s
  | .ext00FF => Sys2Proof.Machine.execExt00FF s
  | .extDXY0 x y => Sys2Proof.Machine.execExtDXY0 x y s
  | .extFX30 x => Sys2Proof.Machine.execExtFX30 x s
  | .extFX75 x => Sys2Proof.Machine.execExtFX75 x s
  | .extFX85 x => Sys2Proof.Machine.execExtFX85 x s
  | .ban6F kk => Sys2Proof.Machine.execBan6F kk s
  | .ban7F kk => Sys2Proof.Machine.execBan7F kk s
  | .ban8FY0 y => Sys2Proof.Machine.execBan8FY0 y s
  | .banCF kk => Sys2Proof.Machine.execBanCF kk s
  | .banFF07 => Sys2Proof.Machine.execBanFF07 s
  | .banFF0A => Sys2Proof.Machine.execBanFF0A s
  | .banFF65 => Sys2Proof.Machine.execBanFF65 s
  | .ban8FY4 y => Sys2Proof.Machine.execBan8FY4 y s
  | .ban8FY6 y => Sys2Proof.Machine.execBan8FY6 y s
  | .ban8FYE y => Sys2Proof.Machine.execBan8FYE y s

end Sys2Proof.Machine
end

