-- ==== Sys2Proof/Machine/Tick.lean ====
section
/-! DEFINITION. One `cpu_tick` (40_decode_dispatch.md R80): sample, halted check, fetch, decode, dispatch or key-wait
service, and the end of the tick. -/

namespace Sys2Proof.Machine

/-- The start of a tick: all 16 key levels sampled at once (R80, 20_memory.md R51). With the first tick of a run `load`
stops being legal (70_reset_and_hazards.md R202). -/
def State.sample (s : State) : State := { s with keypad := s.keypadIn, loadOpen := false }

/-- The word a halted tick reports: the word at the pc, 0 where its fetch fails, which is what the Fatal tick reported
(60_exceptions.md R173, R174; log 19). -/
def State.reportWord (s : State) : Word :=
  match s.fetch with
  | .error _ => 0
  | .ok w => w

/-- A halted tick: the Fatal event again, nothing else (R174). -/
def State.reReport (s : State) : State := s.emit (.cpu .fatal s.faultCause s.pc s.reportWord)

/-- The RewindFrame of a state (60_exceptions.md R190). -/
def State.frame (s : State) (callPc : Addr) (d : DecodedInstruction) : RewindFrame where
  fb            := s.mem.framebuffer
  v             := s.v
  dt            := s.dt
  st            := s.st
  pc            := s.pc
  callPc        := callPc
  decoded       := d
  stack         := s.stack
  sp            := s.sp
  waitingForKey := s.waitingForKey
  spinning      := s.spinning
  drawFlag      := s.drawFlag

/-- The end of a tick that completes without Fatal: `prev_keypad` (R87), then the rewind frame (R190), the oldest of more
than `REWIND_DEPTH` frames dropped. -/
def State.finish (s : State) (callPc : Addr) (d : DecodedInstruction) : State :=
  let captured : State := { s with prevKeypad := s.keypad }
  if s.config.rewindDepth = 0 then captured
  else { captured with rewind := (captured.frame callPc d :: s.rewind).take s.config.rewindDepth }

/-- `finish` after a handler, unless the handler raised Fatal (R80, R173): a tick starts its handler with `halt` = 0. -/
def endTick (callPc : Addr) (d : DecodedInstruction) (r : Result) : Result :=
  match r with
  | .next t => if t.halt then .next t else .next (t.finish callPc d)
  | .fault f => .fault f
  | .refused f => .refused f

/-- The dispatch of a decoded word while no key is waited for (R83, R88, R89). -/
def dispatch (d : Decoded) (s : State) : Result :=
  match d with
  | .instr i => exec i s
  | .invalid r w => execInvalid r w s
  | .unclassified w => execUnclassified w s

/-- The tick of a decoded word while `waiting_for_key` = 1: the key-wait service of the `ld vX, k` at the pc (R80,
45_timers_keypad.md R164). At any other word the spec gives no step (log 11). -/
def dispatchWaiting (d : Decoded) (s : State) : Result :=
  match d with
  | .instr (.ldVxK x) => exec (.ldVxK x) s
  | _ => .fault .keyWaitWordLost

/-- The tick after the sampling. -/
def tickSampled (s : State) : Result :=
  if s.halt then .next s.reReport
  else
    match s.fetch with
    | .error k => raise k 0 s
    | .ok w =>
      endTick s.pc (decodedRecord w (decode s.config w))
        (if s.waitingForKey then dispatchWaiting (decode s.config w) s else dispatch (decode s.config w) s)

/-- `cpu_tick` (R80). -/
def cpuTick (s : State) : Result := tickSampled s.sample

end Sys2Proof.Machine
end

