-- ==== Sys2Proof/Machine/HostSteps.lean ====
section
/-! DEFINITION. The other agents: the timer processes (60_exceptions.md R180, R181), the host's steps
(70_reset_and_hazards.md R207), which step comes next (log 2), and the outputs the host reads. -/

namespace Sys2Proof.Machine

/-- One step of a countdown: toward zero, floor clamp at zero. -/
def countdown (b : Byte) : Byte := if b = 0 then 0 else b - 1

/-- `dt_tick` (R180): it touches `dt` alone and is gated by nothing. -/
def State.dtTick (s : State) : State := { s with dt := countdown s.dt }

/-- `st_tick` (R181). -/
def State.stTick (s : State) : State := { s with st := countdown s.st }

/-- The timer strobes of one issue, sound before delay (R184). -/
def State.timerTicks (s : State) (st dt : Bool) : State :=
  let sounded := if st then s.stTick else s
  if dt then sounded.dtTick else sounded

/-- The strobes issued together: `cpu_tick`, then `st_tick`, then `dt_tick` (R184, D3). While `pause` is 1 the host issues
no `cpu_tick` (R189; log 16). -/
def runStrobes (cpu st dt : Bool) (s : State) : Result :=
  match (if cpu && !s.pause then cpuTick s else .next s) with
  | .next t => .next (t.timerTicks st dt)
  | .fault f => .fault f
  | .refused f => .refused f

/-- `reset(config)` (R200, R201): legal in every state. -/
def hostReset (c : Config) (s : State) : Result :=
  if c.legal then .next (s.resetBlock c) else .refused .illegalConfiguration

/-- `load(bytes)` (R202). -/
def hostLoad (bytes : List Byte) (s : State) : Result :=
  if s.loadOpen then
    if bytes.length ≤ 3584 then
      let loaded : State := { s with mem := s.mem.setBlock s.config.strictUninit progBase bytes }
      .next (if bytes.length > 3232 then loaded.emit (.oversizedRom .warning) else loaded)
    else .refused .romTooLong
  else .refused .loadNotLegal

/-- A frame's fields restored and the ring left with `rest`; what the frame does not list stays (R190). -/
def State.restoreFrame (s : State) (f : RewindFrame) (rest : List RewindFrame) : State :=
  { s with
    mem := s.mem.restoreFramebuffer f.fb, v := f.v, dt := f.dt, st := f.st, pc := f.pc, stack := f.stack, sp := f.sp
    waitingForKey := f.waitingForKey, spinning := f.spinning, drawFlag := f.drawFlag, rewind := rest }

/-- `rewind(n)` (R190): `n` frames popped, the fields of the last one popped restored (log 12). -/
def hostRewind (n : Nat) (s : State) : Result :=
  if s.config.rewindDepth = 0 then .refused .rewindDisabled
  else
    match n with
    | 0 => .next s
    | k + 1 =>
      match s.rewind.drop k with
      | [] => .refused .rewindTooFar
      | f :: rest => .next (s.restoreFrame f rest)

/-- One host step (R207), between ticks. -/
def hostStep (h : HostStep) (s : State) : Result :=
  match h with
  | .strobes cpu st dt => runStrobes cpu st dt s
  | .reset c => hostReset c s
  | .load bytes => hostLoad bytes s
  | .keypadIn levels => .next { s with keypadIn := levels }
  | .pause level => .next { s with pause := level }
  | .drawAck => .next { s with drawFlag := false }
  | .rewind n => hostRewind n s

/-- The next step of the machine: the oldest host step still to come; with none, one `cpu_tick` strobe (log 2). -/
def nextStep (s : State) : Result :=
  match s.pending with
  | [] => runStrobes true false false s
  | h :: rest => hostStep h { s with pending := rest }

/-- The output `sound_on` (R182). -/
def State.soundOn (s : State) : Bool := s.st != 0

/-- A word placed where the next step fetches: nothing pending and no pause, so that the next step is a `cpu_tick`; not
halted and not waiting, so that it dispatches; the two bytes at `pc` and `pc + 1`, as far as those exist (log 8). -/
def State.placeWord (s : State) (w : Word) : State :=
  let strict := s.config.strictUninit
  let hiPlaced := s.mem.set strict s.pc.toNat (hiByte w)
  { s with
    pending := [], pause := false, halt := false, waitingForKey := false
    mem := if s.pc.toNat + 1 < memSize then hiPlaced.set strict (s.pc.toNat + 1) (loByte w) else hiPlaced }

end Sys2Proof.Machine
end

