-- ==== Sys2Proof/Laws/Memory.lean ====
section
/-! SUPPORT. The laws of memory: every operation keeps the canonical form, a read after a write, and for each sequence of
byte accesses one lemma that says all it can do. -/

namespace Sys2Proof.Machine

-- The canonical form.

theorem Memory.wfFrom_cons {strict : Bool} {lo a : Nat} {v : Byte} {rest : Memory} :
    Memory.wfFrom strict lo ((a, v) :: rest) = true ↔
      lo ≤ a ∧ a < memSize ∧ resetCell strict a ≠ some v ∧ Memory.wfFrom strict (a + 1) rest = true := by
  simp [Memory.wfFrom, and_assoc]

/-- The bound of the canonical form may be lowered. -/
theorem Memory.wfFrom_mono {strict : Bool} {m : Memory} {lo lo' : Nat} (hle : lo' ≤ lo)
    (h : Memory.wfFrom strict lo m = true) : Memory.wfFrom strict lo' m = true := by
  cases m with
  | nil => rfl
  | cons c rest =>
    obtain ⟨a, v⟩ := c
    rw [Memory.wfFrom_cons] at h ⊢
    exact ⟨hle.trans h.1, h.2⟩

/-- Below the first listed address a cell holds its reset content. -/
theorem Memory.cell_of_lt {strict : Bool} {m : Memory} {lo a : Nat} (h : Memory.wfFrom strict lo m = true) (ha : a < lo) :
    m.cell strict a = resetCell strict a := by
  induction m generalizing lo with
  | nil => rfl
  | cons c rest ih =>
    obtain ⟨b, w⟩ := c
    rw [Memory.wfFrom_cons] at h
    have hb : a ≠ b := by omega
    simp only [Memory.cell, hb, if_false]
    exact ih h.2.2.2 (by omega)

/-- A write keeps the canonical form above a bound. -/
theorem Memory.set_wfFrom {strict : Bool} {m : Memory} {lo a : Nat} (v : Byte) (h : Memory.wfFrom strict lo m = true)
    (hlo : lo ≤ a) (ha : a < memSize) : Memory.wfFrom strict lo (m.set strict a v) = true := by
  induction m generalizing lo with
  | nil =>
    unfold Memory.set
    split
    · rfl
    · rw [Memory.wfFrom_cons]; exact ⟨hlo, ha, ‹_›, rfl⟩
  | cons c rest ih =>
    obtain ⟨b, w⟩ := c
    have h' := Memory.wfFrom_cons.mp h
    unfold Memory.set
    split
    · split
      · exact h
      · rw [Memory.wfFrom_cons]
        refine ⟨hlo, ha, ‹_›, ?_⟩
        rw [Memory.wfFrom_cons]
        exact ⟨by omega, h'.2⟩
    · split
      · subst b
        split
        · exact Memory.wfFrom_mono (by omega) h'.2.2.2
        · rw [Memory.wfFrom_cons]; exact ⟨hlo, ha, ‹_›, h'.2.2.2⟩
      · rw [Memory.wfFrom_cons]
        exact ⟨h'.1, h'.2.1, h'.2.2.1, ih h'.2.2.2 (by omega)⟩

/-- A write keeps the canonical form. -/
theorem Memory.set_wf {strict : Bool} {m : Memory} {a : Nat} (v : Byte) (h : m.wf strict = true) (ha : a < memSize) :
    (m.set strict a v).wf strict = true := Memory.set_wfFrom v h (Nat.zero_le a) ha

/-- The empty list, reset's memory, is canonical. -/
theorem Memory.nil_wf (strict : Bool) : Memory.wf strict [] = true := rfl

/-- A read after a write: the value at the address written, the old cell elsewhere. -/
theorem Memory.cell_set_from {strict : Bool} {m : Memory} {lo a : Nat} (v : Byte) (b : Nat)
    (h : Memory.wfFrom strict lo m = true) : (m.set strict a v).cell strict b = if b = a then some v else m.cell strict b := by
  induction m generalizing lo with
  | nil =>
    unfold Memory.set
    by_cases hr : resetCell strict a = some v
    · simp only [hr, if_true, Memory.cell]
      split
      · subst b; exact hr
      · rfl
    · simp only [hr, if_false, Memory.cell]
  | cons c rest ih =>
    obtain ⟨d, w⟩ := c
    have h' := Memory.wfFrom_cons.mp h
    unfold Memory.set
    split
    · next hlt =>
      by_cases hr : resetCell strict a = some v
      · rw [if_pos hr]
        by_cases hb : b = a
        · subst hb
          have hd : b ≠ d := by omega
          simp only [Memory.cell, hd, if_false, if_true]
          rw [Memory.cell_of_lt h'.2.2.2 (by omega)]
          exact hr
        · simp [hb]
      · rw [if_neg hr]; rfl
    · split
      · subst d
        by_cases hr : resetCell strict a = some v
        · rw [if_pos hr]
          by_cases hb : b = a
          · subst hb
            simp only [if_true]
            rw [Memory.cell_of_lt h'.2.2.2 (by omega)]
            exact hr
          · simp [Memory.cell, hb]
        · rw [if_neg hr]
          by_cases hb : b = a <;> simp [Memory.cell, hb]
      · next hne =>
        simp only [Memory.cell]
        rw [ih h'.2.2.2]
        by_cases hb : b = d
        · subst hb
          have : b ≠ a := fun e => hne e.symm
          simp [this]
        · simp [hb]

/-- A read after a write, for a canonical memory. -/
theorem Memory.cell_set {strict : Bool} {m : Memory} {a : Nat} (v : Byte) (b : Nat) (h : m.wf strict = true) :
    (m.set strict a v).cell strict b = if b = a then some v else m.cell strict b := Memory.cell_set_from v b h

/-- A framebuffer cell is never Unset (20_memory.md R54). -/
theorem Memory.cell_framebuffer (strict : Bool) (m : Memory) {a : Nat} (ha : fbBase ≤ a) :
    ∃ b, m.cell strict a = some b := by
  induction m with
  | nil =>
    refine ⟨0, ?_⟩
    have h : ¬ (fontBase ≤ a ∧ a < fontBase + 80) := by unfold fbBase at ha; unfold fontBase; omega
    simp only [Memory.cell, resetCell, h, ha, if_true, if_false]
  | cons c rest ih =>
    obtain ⟨d, w⟩ := c
    by_cases hd : a = d
    · exact ⟨w, by simp [Memory.cell, hd]⟩
    · simpa [Memory.cell, hd] using ih

/-- Without `STRICT_UNINIT` no cell is ever Unset (R41). -/
theorem Memory.cell_nonstrict (m : Memory) {a : Nat} : ∃ b, m.cell false a = some b := by
  induction m with
  | nil =>
    simp only [Memory.cell, resetCell]
    split
    · next h =>
      have hl : a - fontBase < fontTable.length := by
        have : fontTable.length = 80 := rfl
        omega
      exact ⟨fontTable[a - fontBase], List.getElem?_eq_getElem hl⟩
    · split
      · exact ⟨0, rfl⟩
      · exact ⟨0, rfl⟩
  | cons c rest ih =>
    obtain ⟨d, w⟩ := c
    by_cases hd : a = d
    · exact ⟨w, by simp [Memory.cell, hd]⟩
    · simpa [Memory.cell, hd] using ih

-- MemRead and MemWrite.

/-- When `MemRead` answers a byte (R42). -/
theorem Memory.read_ok {strict : Bool} {m : Memory} {a : Nat} {b : Byte} :
    m.read strict a = .ok b ↔ a ≤ 0xFFF ∧ m.cell strict a = some b := by
  unfold Memory.read
  by_cases h : a > 0xFFF
  · simp [h]
  · cases hc : m.cell strict a <;> (simp [h]; try omega)

/-- When `MemRead` raises, and what (R42). -/
theorem Memory.read_error {strict : Bool} {m : Memory} {a : Nat} {k : ErrorKind} :
    m.read strict a = .error k ↔
      (a > 0xFFF ∧ k = .addressOutOfRange) ∨ (a ≤ 0xFFF ∧ m.cell strict a = none ∧ k = .uninitializedMemoryAccess) := by
  unfold Memory.read
  by_cases h : a > 0xFFF
  · simp [h, eq_comm]
  · cases hc : m.cell strict a <;> (simp [h, eq_comm]; try omega)

/-- What `MemWrite` answers (R43). -/
theorem Memory.write_eq {strict : Bool} {m : Memory} {a : Nat} {v : Byte} :
    m.write strict a v = if a > 0xFFF then .error .addressOutOfRange else .ok (m.set strict a v) := rfl

-- Sequences.

/-- A block read answers exactly when every cell of it is in range and set, and then answers their bytes. -/
theorem Memory.readBlock_ok {strict : Bool} {m : Memory} {n : Nat} : ∀ {a : Nat} {bs : List Byte},
    m.readBlock strict a n = .ok bs ↔
      bs.length = n ∧ ∀ k < n, a + k ≤ 0xFFF ∧ m.cell strict (a + k) = bs[k]? := by
  induction n with
  | zero =>
    intro a bs
    cases bs <;> simp [Memory.readBlock]
  | succ n ih =>
    intro a bs
    unfold Memory.readBlock
    cases hr : m.read strict a with
    | error k =>
      simp only [reduceCtorEq, false_iff, not_and]
      intro hl h
      obtain ⟨h1, h2⟩ := h 0 (by omega)
      have : ∃ b, m.cell strict a = some b := by
        rw [Nat.add_zero] at h2
        rw [h2]
        exact ⟨bs[0], List.getElem?_eq_getElem (by omega)⟩
      obtain ⟨b, hb⟩ := this
      have := Memory.read_ok.mpr ⟨h1, hb⟩
      rw [Nat.add_zero] at this
      rw [hr] at this
      cases this
    | ok b =>
      have hb := Memory.read_ok.mp hr
      constructor
      · intro h
        cases hrest : m.readBlock strict (a + 1) n with
        | error k => simp [hrest] at h
        | ok bs' =>
          simp only [hrest, Except.ok.injEq] at h
          subst h
          obtain ⟨hl, hc⟩ := ih.mp hrest
          refine ⟨by simp [hl], ?_⟩
          intro k hk
          cases k with
          | zero => simpa using hb
          | succ k =>
            have := hc k (by omega)
            simpa [Nat.add_assoc, Nat.add_comm 1 k] using this
      · rintro ⟨hl, hc⟩
        cases bs with
        | nil => simp at hl
        | cons b' bs' =>
          have h0 := (hc 0 (by omega)).2
          simp only [Nat.add_zero, List.getElem?_cons_zero] at h0
          rw [hb.2, Option.some.injEq] at h0
          subst h0
          have hrest : m.readBlock strict (a + 1) n = .ok bs' := by
            refine ih.mpr ⟨by simpa using hl, ?_⟩
            intro k hk
            have := hc (k + 1) (by omega)
            simpa [Nat.add_assoc, Nat.add_comm 1 k] using this
          simp [hrest]

/-- A block read raises the error of its first failing cell. -/
theorem Memory.readBlock_error {strict : Bool} {m : Memory} {n : Nat} : ∀ {a : Nat} {k : ErrorKind},
    m.readBlock strict a n = .error k ↔
      ∃ j < n, (∀ i < j, ∃ b, m.read strict (a + i) = .ok b) ∧ m.read strict (a + j) = .error k := by
  induction n with
  | zero => intro a k; simp [Memory.readBlock]
  | succ n ih =>
    intro a k
    unfold Memory.readBlock
    cases hr : m.read strict a with
    | error k' =>
      constructor
      · intro h
        simp only [Except.error.injEq] at h
        subst h
        exact ⟨0, by omega, by intro i hi; omega, by simpa using hr⟩
      · rintro ⟨j, hj, hpre, herr⟩
        cases j with
        | zero => rw [Nat.add_zero, hr] at herr; simpa using herr
        | succ j =>
          obtain ⟨b, hb⟩ := hpre 0 (by omega)
          rw [Nat.add_zero, hr] at hb
          cases hb
    | ok b =>
      constructor
      · intro h
        cases hrest : m.readBlock strict (a + 1) n with
        | ok bs => simp [hrest] at h
        | error k' =>
          simp only [hrest, Except.error.injEq] at h
          subst h
          obtain ⟨j, hj, hpre, herr⟩ := ih.mp hrest
          refine ⟨j + 1, by omega, ?_, by rwa [Nat.add_comm j 1, ← Nat.add_assoc]⟩
          intro i hi
          cases i with
          | zero => exact ⟨b, by simpa using hr⟩
          | succ i => rw [Nat.add_comm i 1, ← Nat.add_assoc]; exact hpre i (by omega)
      · rintro ⟨j, hj, hpre, herr⟩
        cases j with
        | zero => rw [Nat.add_zero, hr] at herr; cases herr
        | succ j =>
          have hrest : m.readBlock strict (a + 1) n = .error k := by
            refine ih.mpr ⟨j, by omega, ?_, by rwa [Nat.add_assoc, Nat.add_comm 1 j]⟩
            intro i hi
            have := hpre (i + 1) (by omega)
            rwa [Nat.add_comm i 1, ← Nat.add_assoc] at this
          simp [hrest]

/-- A block write answers exactly when all its addresses are in range. -/
theorem Memory.writeBlock_isOk {strict : Bool} {bs : List Byte} : ∀ {m : Memory} {a : Nat},
    (∃ m', m.writeBlock strict a bs = .ok m') ↔ (bs = [] ∨ a + bs.length ≤ memSize) := by
  induction bs with
  | nil => intro m a; simp [Memory.writeBlock]
  | cons b rest ih =>
    intro m a
    unfold Memory.writeBlock
    rw [Memory.write_eq]
    by_cases h : a > 0xFFF
    · rw [if_pos h]
      unfold memSize
      simp only [reduceCtorEq, exists_false, List.length_cons, false_or, false_iff, not_le]
      omega
    · rw [if_neg h]
      simp only [ih, reduceCtorEq, List.length_cons, false_or]
      unfold memSize
      constructor
      · rintro (h0 | h0)
        · subst h0; simp; omega
        · omega
      · intro h0; right; omega

/-- A block write that raises raises AddressOutOfRange. -/
theorem Memory.writeBlock_error {strict : Bool} {bs : List Byte} : ∀ {m : Memory} {a : Nat} {k : ErrorKind},
    m.writeBlock strict a bs = .error k → k = .addressOutOfRange := by
  induction bs with
  | nil => intro m a k h; simp [Memory.writeBlock] at h
  | cons b rest ih =>
    intro m a k h
    unfold Memory.writeBlock at h
    rw [Memory.write_eq] at h
    by_cases h' : a > 0xFFF
    · rw [if_pos h'] at h
      simp only [Except.error.injEq] at h
      exact h.symm
    · rw [if_neg h'] at h
      exact ih h

/-- What a block write that answers does: the form is kept, the bytes stand from `a` up, every other cell is as before. -/
theorem Memory.writeBlock_ok {strict : Bool} {bs : List Byte} : ∀ {m m' : Memory} {a : Nat}, m.wf strict = true →
    m.writeBlock strict a bs = .ok m' →
      m'.wf strict = true ∧
      ∀ b, m'.cell strict b = if a ≤ b ∧ b < a + bs.length then bs[b - a]? else m.cell strict b := by
  induction bs with
  | nil =>
    intro m m' a hwf h
    simp only [Memory.writeBlock, Except.ok.injEq] at h
    subst h
    refine ⟨hwf, fun b => ?_⟩
    rw [if_neg]
    simp only [List.length_nil]
    omega
  | cons v rest ih =>
    intro m m' a hwf h
    unfold Memory.writeBlock at h
    rw [Memory.write_eq] at h
    by_cases h' : a > 0xFFF
    · rw [if_pos h'] at h; cases h
    · rw [if_neg h'] at h
      have hwf' := Memory.set_wf (a := a) v hwf (by unfold memSize; omega)
      obtain ⟨h1, h2⟩ := ih hwf' h
      refine ⟨h1, fun b => ?_⟩
      rw [h2, Memory.cell_set v b hwf, List.length_cons]
      by_cases hb : b = a
      · subst hb
        simp
      · by_cases hr : a + 1 ≤ b ∧ b < a + 1 + rest.length
        · rw [if_pos hr, if_pos (by omega)]
          obtain ⟨j, hj⟩ : ∃ j, b - a = j + 1 := ⟨b - a - 1, by omega⟩
          rw [hj, List.getElem?_cons_succ]
          congr 1
          omega
        · rw [if_neg hr, if_neg hb, if_neg (by omega)]

/-- What clearing a run of cells inside memory does (`cls`). -/
theorem Memory.clear_spec {strict : Bool} {n : Nat} : ∀ {m : Memory} {a : Nat}, m.wf strict = true → a + n ≤ memSize →
    (m.clear strict a n).wf strict = true ∧
    ∀ b, (m.clear strict a n).cell strict b = if a ≤ b ∧ b < a + n then some 0 else m.cell strict b := by
  induction n with
  | zero =>
    intro m a hwf _
    refine ⟨hwf, fun b => ?_⟩
    rw [if_neg (by omega)]
    rfl
  | succ n ih =>
    intro m a hwf hn
    obtain ⟨h1, h2⟩ := ih (Memory.set_wf (a := a) 0 hwf (by omega)) (a := a + 1) (by omega)
    refine ⟨h1, fun b => ?_⟩
    show ((m.set strict a 0).clear strict (a + 1) n).cell strict b = _
    rw [h2, Memory.cell_set 0 b hwf]
    by_cases hb : b = a
    · subst hb; simp
    · by_cases hr : a + 1 ≤ b ∧ b < a + 1 + n
      · rw [if_pos hr, if_pos (by omega)]
      · rw [if_neg hr, if_neg hb, if_neg (by omega)]

/-- What setting an image inside memory does (`load`). -/
theorem Memory.setBlock_spec {strict : Bool} {bs : List Byte} : ∀ {m : Memory} {a : Nat}, m.wf strict = true →
    a + bs.length ≤ memSize →
    (m.setBlock strict a bs).wf strict = true ∧
    ∀ b, (m.setBlock strict a bs).cell strict b = if a ≤ b ∧ b < a + bs.length then bs[b - a]? else m.cell strict b := by
  induction bs with
  | nil =>
    intro m a hwf _
    refine ⟨hwf, fun b => ?_⟩
    rw [if_neg (by simp only [List.length_nil]; omega)]
    rfl
  | cons v rest ih =>
    intro m a hwf hn
    rw [List.length_cons] at hn
    obtain ⟨h1, h2⟩ := ih (Memory.set_wf (a := a) v hwf (by omega)) (a := a + 1) (by omega)
    refine ⟨h1, fun b => ?_⟩
    show ((m.set strict a v).setBlock strict (a + 1) rest).cell strict b = _
    rw [h2, Memory.cell_set v b hwf, List.length_cons]
    by_cases hb : b = a
    · subst hb; simp
    · by_cases hr : a + 1 ≤ b ∧ b < a + 1 + rest.length
      · rw [if_pos hr, if_pos (by omega)]
        obtain ⟨j, hj⟩ : ∃ j, b - a = j + 1 := ⟨b - a - 1, by omega⟩
        rw [hj, List.getElem?_cons_succ]
        congr 1
        omega
      · rw [if_neg hr, if_neg hb, if_neg (by omega)]

-- The framebuffer region of a canonical memory, and its restoring (60_exceptions.md R190).

/-- Below a bound of the framebuffer the region keeps the canonical form above that bound. -/
theorem Memory.framebuffer_wfFrom {strict : Bool} {m : Memory} : ∀ {lo : Nat}, Memory.wfFrom strict lo m = true →
    Memory.wfFrom strict (max lo fbBase) m.framebuffer = true := by
  induction m with
  | nil => intro lo _; rfl
  | cons c rest ih =>
    obtain ⟨a, v⟩ := c
    intro lo h
    rw [Memory.wfFrom_cons] at h
    unfold Memory.framebuffer
    rw [List.filter_cons]
    split
    · next ha =>
      simp only [decide_eq_true_eq] at ha
      rw [Memory.wfFrom_cons]
      refine ⟨by omega, h.2.1, h.2.2.1, ?_⟩
      have := ih h.2.2.2
      rw [Nat.max_eq_left (by omega)] at this
      exact this
    · exact Memory.wfFrom_mono (by omega) (ih h.2.2.2)

/-- A frame's copy of the framebuffer region, put over a canonical memory, leaves a canonical memory. -/
theorem Memory.restoreFramebuffer_wf {strict : Bool} {m fb : Memory} (hfb : Memory.wfFrom strict fbBase fb = true) :
    ∀ {lo : Nat}, Memory.wfFrom strict lo m = true →
    Memory.wfFrom strict (min lo fbBase) (m.restoreFramebuffer fb) = true := by
  induction m with
  | nil => intro lo _; exact Memory.wfFrom_mono (by omega) hfb
  | cons c rest ih =>
    obtain ⟨a, v⟩ := c
    intro lo h
    rw [Memory.wfFrom_cons] at h
    have hrest := ih h.2.2.2
    unfold Memory.restoreFramebuffer at hrest ⊢
    rw [List.filter_cons]
    split
    · next ha =>
      simp only [decide_eq_true_eq] at ha
      rw [List.cons_append, Memory.wfFrom_cons]
      refine ⟨by omega, h.2.1, h.2.2.1, ?_⟩
      rw [Nat.min_eq_left (by omega)] at hrest
      exact hrest
    · exact Memory.wfFrom_mono (by omega) hrest

/-- A cell after the framebuffer is restored: the frame's in the framebuffer, the old one below it (60_exceptions.md
R190). -/
theorem Memory.cell_restoreFramebuffer {strict : Bool} {m fb : Memory} (hfb : Memory.wfFrom strict fbBase fb = true)
    (a : Nat) : (m.restoreFramebuffer fb).cell strict a = if a < fbBase then m.cell strict a else fb.cell strict a := by
  induction m with
  | nil =>
    split
    · next h => exact Memory.cell_of_lt hfb h
    · rfl
  | cons c rest ih =>
    obtain ⟨b, v⟩ := c
    unfold Memory.restoreFramebuffer at ih ⊢
    by_cases hb : b < fbBase
    · simp only [List.filter_cons, hb, decide_true, if_true, List.cons_append, Memory.cell]
      by_cases hab : a = b
      · rw [if_pos hab, if_pos (hab ▸ hb), if_pos hab]
      · rw [if_neg hab, ih, if_neg hab]
    · simp only [List.filter_cons, hb, decide_false, Bool.false_eq_true, if_false, Memory.cell]
      rw [ih]
      split
      · rw [if_neg (by omega)]
      · rfl

end Sys2Proof.Machine
end

