-- ==== Sys2Proof/Laws/State.lean ====
section
/-! SUPPORT. One lemma per field per update of State, so that no later proof unfolds a record update; and the
updates that are built from others, written out in them. -/

namespace Sys2Proof.Machine

variable (s : State)

-- setReg
@[simp] theorem State.setReg_v (x : RegNum) (b : Byte) : (s.setReg x b).v = s.v.set x.toNat b x.isLt := rfl
@[simp] theorem State.setReg_i (x : RegNum) (b : Byte) : (s.setReg x b).i = s.i := rfl
@[simp] theorem State.setReg_pc (x : RegNum) (b : Byte) : (s.setReg x b).pc = s.pc := rfl
@[simp] theorem State.setReg_dt (x : RegNum) (b : Byte) : (s.setReg x b).dt = s.dt := rfl
@[simp] theorem State.setReg_st (x : RegNum) (b : Byte) : (s.setReg x b).st = s.st := rfl
@[simp] theorem State.setReg_stack (x : RegNum) (b : Byte) : (s.setReg x b).stack = s.stack := rfl
@[simp] theorem State.setReg_sp (x : RegNum) (b : Byte) : (s.setReg x b).sp = s.sp := rfl
@[simp] theorem State.setReg_keypad (x : RegNum) (b : Byte) : (s.setReg x b).keypad = s.keypad := rfl
@[simp] theorem State.setReg_prevKeypad (x : RegNum) (b : Byte) : (s.setReg x b).prevKeypad = s.prevKeypad := rfl
@[simp] theorem State.setReg_waitingForKey (x : RegNum) (b : Byte) : (s.setReg x b).waitingForKey = s.waitingForKey := rfl
@[simp] theorem State.setReg_spinning (x : RegNum) (b : Byte) : (s.setReg x b).spinning = s.spinning := rfl
@[simp] theorem State.setReg_drawFlag (x : RegNum) (b : Byte) : (s.setReg x b).drawFlag = s.drawFlag := rfl
@[simp] theorem State.setReg_halt (x : RegNum) (b : Byte) : (s.setReg x b).halt = s.halt := rfl
@[simp] theorem State.setReg_faultCause (x : RegNum) (b : Byte) : (s.setReg x b).faultCause = s.faultCause := rfl
@[simp] theorem State.setReg_mem (x : RegNum) (b : Byte) : (s.setReg x b).mem = s.mem := rfl
@[simp] theorem State.setReg_config (x : RegNum) (b : Byte) : (s.setReg x b).config = s.config := rfl
@[simp] theorem State.setReg_rewind (x : RegNum) (b : Byte) : (s.setReg x b).rewind = s.rewind := rfl
@[simp] theorem State.setReg_log (x : RegNum) (b : Byte) : (s.setReg x b).log = s.log := rfl
@[simp] theorem State.setReg_keypadIn (x : RegNum) (b : Byte) : (s.setReg x b).keypadIn = s.keypadIn := rfl
@[simp] theorem State.setReg_pause (x : RegNum) (b : Byte) : (s.setReg x b).pause = s.pause := rfl
@[simp] theorem State.setReg_loadOpen (x : RegNum) (b : Byte) : (s.setReg x b).loadOpen = s.loadOpen := rfl
@[simp] theorem State.setReg_pending (x : RegNum) (b : Byte) : (s.setReg x b).pending = s.pending := rfl
@[simp] theorem State.setReg_draws (x : RegNum) (b : Byte) : (s.setReg x b).draws = s.draws := rfl

-- goto
@[simp] theorem State.goto_v (a : Addr) : (s.goto a).v = s.v := rfl
@[simp] theorem State.goto_i (a : Addr) : (s.goto a).i = s.i := rfl
@[simp] theorem State.goto_pc (a : Addr) : (s.goto a).pc = a := rfl
@[simp] theorem State.goto_dt (a : Addr) : (s.goto a).dt = s.dt := rfl
@[simp] theorem State.goto_st (a : Addr) : (s.goto a).st = s.st := rfl
@[simp] theorem State.goto_stack (a : Addr) : (s.goto a).stack = s.stack := rfl
@[simp] theorem State.goto_sp (a : Addr) : (s.goto a).sp = s.sp := rfl
@[simp] theorem State.goto_keypad (a : Addr) : (s.goto a).keypad = s.keypad := rfl
@[simp] theorem State.goto_prevKeypad (a : Addr) : (s.goto a).prevKeypad = s.prevKeypad := rfl
@[simp] theorem State.goto_waitingForKey (a : Addr) : (s.goto a).waitingForKey = s.waitingForKey := rfl
@[simp] theorem State.goto_spinning (a : Addr) : (s.goto a).spinning = s.spinning := rfl
@[simp] theorem State.goto_drawFlag (a : Addr) : (s.goto a).drawFlag = s.drawFlag := rfl
@[simp] theorem State.goto_halt (a : Addr) : (s.goto a).halt = s.halt := rfl
@[simp] theorem State.goto_faultCause (a : Addr) : (s.goto a).faultCause = s.faultCause := rfl
@[simp] theorem State.goto_mem (a : Addr) : (s.goto a).mem = s.mem := rfl
@[simp] theorem State.goto_config (a : Addr) : (s.goto a).config = s.config := rfl
@[simp] theorem State.goto_rewind (a : Addr) : (s.goto a).rewind = s.rewind := rfl
@[simp] theorem State.goto_log (a : Addr) : (s.goto a).log = s.log := rfl
@[simp] theorem State.goto_keypadIn (a : Addr) : (s.goto a).keypadIn = s.keypadIn := rfl
@[simp] theorem State.goto_pause (a : Addr) : (s.goto a).pause = s.pause := rfl
@[simp] theorem State.goto_loadOpen (a : Addr) : (s.goto a).loadOpen = s.loadOpen := rfl
@[simp] theorem State.goto_pending (a : Addr) : (s.goto a).pending = s.pending := rfl
@[simp] theorem State.goto_draws (a : Addr) : (s.goto a).draws = s.draws := rfl

-- jump
@[simp] theorem State.jump_v (a : Addr) : (s.jump a).v = s.v := rfl
@[simp] theorem State.jump_i (a : Addr) : (s.jump a).i = s.i := rfl
@[simp] theorem State.jump_pc (a : Addr) : (s.jump a).pc = a := rfl
@[simp] theorem State.jump_dt (a : Addr) : (s.jump a).dt = s.dt := rfl
@[simp] theorem State.jump_st (a : Addr) : (s.jump a).st = s.st := rfl
@[simp] theorem State.jump_stack (a : Addr) : (s.jump a).stack = s.stack := rfl
@[simp] theorem State.jump_sp (a : Addr) : (s.jump a).sp = s.sp := rfl
@[simp] theorem State.jump_keypad (a : Addr) : (s.jump a).keypad = s.keypad := rfl
@[simp] theorem State.jump_prevKeypad (a : Addr) : (s.jump a).prevKeypad = s.prevKeypad := rfl
@[simp] theorem State.jump_waitingForKey (a : Addr) : (s.jump a).waitingForKey = s.waitingForKey := rfl
@[simp] theorem State.jump_spinning (a : Addr) : (s.jump a).spinning = (s.spinning || a == s.pc) := rfl
@[simp] theorem State.jump_drawFlag (a : Addr) : (s.jump a).drawFlag = s.drawFlag := rfl
@[simp] theorem State.jump_halt (a : Addr) : (s.jump a).halt = s.halt := rfl
@[simp] theorem State.jump_faultCause (a : Addr) : (s.jump a).faultCause = s.faultCause := rfl
@[simp] theorem State.jump_mem (a : Addr) : (s.jump a).mem = s.mem := rfl
@[simp] theorem State.jump_config (a : Addr) : (s.jump a).config = s.config := rfl
@[simp] theorem State.jump_rewind (a : Addr) : (s.jump a).rewind = s.rewind := rfl
@[simp] theorem State.jump_log (a : Addr) : (s.jump a).log = s.log := rfl
@[simp] theorem State.jump_keypadIn (a : Addr) : (s.jump a).keypadIn = s.keypadIn := rfl
@[simp] theorem State.jump_pause (a : Addr) : (s.jump a).pause = s.pause := rfl
@[simp] theorem State.jump_loadOpen (a : Addr) : (s.jump a).loadOpen = s.loadOpen := rfl
@[simp] theorem State.jump_pending (a : Addr) : (s.jump a).pending = s.pending := rfl
@[simp] theorem State.jump_draws (a : Addr) : (s.jump a).draws = s.draws := rfl

-- push
@[simp] theorem State.push_v (a : Addr) : (s.push a).v = s.v := rfl
@[simp] theorem State.push_i (a : Addr) : (s.push a).i = s.i := rfl
@[simp] theorem State.push_pc (a : Addr) : (s.push a).pc = s.pc := rfl
@[simp] theorem State.push_dt (a : Addr) : (s.push a).dt = s.dt := rfl
@[simp] theorem State.push_st (a : Addr) : (s.push a).st = s.st := rfl
@[simp] theorem State.push_stack (a : Addr) : (s.push a).stack = s.stack.set s.sp a := rfl
@[simp] theorem State.push_sp (a : Addr) : (s.push a).sp = s.sp + 1 := rfl
@[simp] theorem State.push_keypad (a : Addr) : (s.push a).keypad = s.keypad := rfl
@[simp] theorem State.push_prevKeypad (a : Addr) : (s.push a).prevKeypad = s.prevKeypad := rfl
@[simp] theorem State.push_waitingForKey (a : Addr) : (s.push a).waitingForKey = s.waitingForKey := rfl
@[simp] theorem State.push_spinning (a : Addr) : (s.push a).spinning = s.spinning := rfl
@[simp] theorem State.push_drawFlag (a : Addr) : (s.push a).drawFlag = s.drawFlag := rfl
@[simp] theorem State.push_halt (a : Addr) : (s.push a).halt = s.halt := rfl
@[simp] theorem State.push_faultCause (a : Addr) : (s.push a).faultCause = s.faultCause := rfl
@[simp] theorem State.push_mem (a : Addr) : (s.push a).mem = s.mem := rfl
@[simp] theorem State.push_config (a : Addr) : (s.push a).config = s.config := rfl
@[simp] theorem State.push_rewind (a : Addr) : (s.push a).rewind = s.rewind := rfl
@[simp] theorem State.push_log (a : Addr) : (s.push a).log = s.log := rfl
@[simp] theorem State.push_keypadIn (a : Addr) : (s.push a).keypadIn = s.keypadIn := rfl
@[simp] theorem State.push_pause (a : Addr) : (s.push a).pause = s.pause := rfl
@[simp] theorem State.push_loadOpen (a : Addr) : (s.push a).loadOpen = s.loadOpen := rfl
@[simp] theorem State.push_pending (a : Addr) : (s.push a).pending = s.pending := rfl
@[simp] theorem State.push_draws (a : Addr) : (s.push a).draws = s.draws := rfl

-- pop
@[simp] theorem State.pop_v : (s.pop).v = s.v := rfl
@[simp] theorem State.pop_i : (s.pop).i = s.i := rfl
@[simp] theorem State.pop_pc : (s.pop).pc = s.pc := rfl
@[simp] theorem State.pop_dt : (s.pop).dt = s.dt := rfl
@[simp] theorem State.pop_st : (s.pop).st = s.st := rfl
@[simp] theorem State.pop_stack : (s.pop).stack = s.stack := rfl
@[simp] theorem State.pop_sp : (s.pop).sp = s.sp - 1 := rfl
@[simp] theorem State.pop_keypad : (s.pop).keypad = s.keypad := rfl
@[simp] theorem State.pop_prevKeypad : (s.pop).prevKeypad = s.prevKeypad := rfl
@[simp] theorem State.pop_waitingForKey : (s.pop).waitingForKey = s.waitingForKey := rfl
@[simp] theorem State.pop_spinning : (s.pop).spinning = s.spinning := rfl
@[simp] theorem State.pop_drawFlag : (s.pop).drawFlag = s.drawFlag := rfl
@[simp] theorem State.pop_halt : (s.pop).halt = s.halt := rfl
@[simp] theorem State.pop_faultCause : (s.pop).faultCause = s.faultCause := rfl
@[simp] theorem State.pop_mem : (s.pop).mem = s.mem := rfl
@[simp] theorem State.pop_config : (s.pop).config = s.config := rfl
@[simp] theorem State.pop_rewind : (s.pop).rewind = s.rewind := rfl
@[simp] theorem State.pop_log : (s.pop).log = s.log := rfl
@[simp] theorem State.pop_keypadIn : (s.pop).keypadIn = s.keypadIn := rfl
@[simp] theorem State.pop_pause : (s.pop).pause = s.pause := rfl
@[simp] theorem State.pop_loadOpen : (s.pop).loadOpen = s.loadOpen := rfl
@[simp] theorem State.pop_pending : (s.pop).pending = s.pending := rfl
@[simp] theorem State.pop_draws : (s.pop).draws = s.draws := rfl

-- emit
@[simp] theorem State.emit_v (e : LogEvent) : (s.emit e).v = s.v := rfl
@[simp] theorem State.emit_i (e : LogEvent) : (s.emit e).i = s.i := rfl
@[simp] theorem State.emit_pc (e : LogEvent) : (s.emit e).pc = s.pc := rfl
@[simp] theorem State.emit_dt (e : LogEvent) : (s.emit e).dt = s.dt := rfl
@[simp] theorem State.emit_st (e : LogEvent) : (s.emit e).st = s.st := rfl
@[simp] theorem State.emit_stack (e : LogEvent) : (s.emit e).stack = s.stack := rfl
@[simp] theorem State.emit_sp (e : LogEvent) : (s.emit e).sp = s.sp := rfl
@[simp] theorem State.emit_keypad (e : LogEvent) : (s.emit e).keypad = s.keypad := rfl
@[simp] theorem State.emit_prevKeypad (e : LogEvent) : (s.emit e).prevKeypad = s.prevKeypad := rfl
@[simp] theorem State.emit_waitingForKey (e : LogEvent) : (s.emit e).waitingForKey = s.waitingForKey := rfl
@[simp] theorem State.emit_spinning (e : LogEvent) : (s.emit e).spinning = s.spinning := rfl
@[simp] theorem State.emit_drawFlag (e : LogEvent) : (s.emit e).drawFlag = s.drawFlag := rfl
@[simp] theorem State.emit_halt (e : LogEvent) : (s.emit e).halt = s.halt := rfl
@[simp] theorem State.emit_faultCause (e : LogEvent) : (s.emit e).faultCause = s.faultCause := rfl
@[simp] theorem State.emit_mem (e : LogEvent) : (s.emit e).mem = s.mem := rfl
@[simp] theorem State.emit_config (e : LogEvent) : (s.emit e).config = s.config := rfl
@[simp] theorem State.emit_rewind (e : LogEvent) : (s.emit e).rewind = s.rewind := rfl
@[simp] theorem State.emit_log (e : LogEvent) : (s.emit e).log = s.log ++ [e] := rfl
@[simp] theorem State.emit_keypadIn (e : LogEvent) : (s.emit e).keypadIn = s.keypadIn := rfl
@[simp] theorem State.emit_pause (e : LogEvent) : (s.emit e).pause = s.pause := rfl
@[simp] theorem State.emit_loadOpen (e : LogEvent) : (s.emit e).loadOpen = s.loadOpen := rfl
@[simp] theorem State.emit_pending (e : LogEvent) : (s.emit e).pending = s.pending := rfl
@[simp] theorem State.emit_draws (e : LogEvent) : (s.emit e).draws = s.draws := rfl

-- fatal
@[simp] theorem State.fatal_v (k : ErrorKind) (w : Word) : (s.fatal k w).v = s.v := rfl
@[simp] theorem State.fatal_i (k : ErrorKind) (w : Word) : (s.fatal k w).i = s.i := rfl
@[simp] theorem State.fatal_pc (k : ErrorKind) (w : Word) : (s.fatal k w).pc = s.pc := rfl
@[simp] theorem State.fatal_dt (k : ErrorKind) (w : Word) : (s.fatal k w).dt = s.dt := rfl
@[simp] theorem State.fatal_st (k : ErrorKind) (w : Word) : (s.fatal k w).st = s.st := rfl
@[simp] theorem State.fatal_stack (k : ErrorKind) (w : Word) : (s.fatal k w).stack = s.stack := rfl
@[simp] theorem State.fatal_sp (k : ErrorKind) (w : Word) : (s.fatal k w).sp = s.sp := rfl
@[simp] theorem State.fatal_keypad (k : ErrorKind) (w : Word) : (s.fatal k w).keypad = s.keypad := rfl
@[simp] theorem State.fatal_prevKeypad (k : ErrorKind) (w : Word) : (s.fatal k w).prevKeypad = s.prevKeypad := rfl
@[simp] theorem State.fatal_waitingForKey (k : ErrorKind) (w : Word) : (s.fatal k w).waitingForKey = s.waitingForKey := rfl
@[simp] theorem State.fatal_spinning (k : ErrorKind) (w : Word) : (s.fatal k w).spinning = s.spinning := rfl
@[simp] theorem State.fatal_drawFlag (k : ErrorKind) (w : Word) : (s.fatal k w).drawFlag = s.drawFlag := rfl
@[simp] theorem State.fatal_halt (k : ErrorKind) (w : Word) : (s.fatal k w).halt = true := rfl
@[simp] theorem State.fatal_faultCause (k : ErrorKind) (w : Word) : (s.fatal k w).faultCause = k.code := rfl
@[simp] theorem State.fatal_mem (k : ErrorKind) (w : Word) : (s.fatal k w).mem = s.mem := rfl
@[simp] theorem State.fatal_config (k : ErrorKind) (w : Word) : (s.fatal k w).config = s.config := rfl
@[simp] theorem State.fatal_rewind (k : ErrorKind) (w : Word) : (s.fatal k w).rewind = s.rewind := rfl
@[simp] theorem State.fatal_log (k : ErrorKind) (w : Word) : (s.fatal k w).log = s.log ++ [.cpu .fatal k.code s.pc w] := rfl
@[simp] theorem State.fatal_keypadIn (k : ErrorKind) (w : Word) : (s.fatal k w).keypadIn = s.keypadIn := rfl
@[simp] theorem State.fatal_pause (k : ErrorKind) (w : Word) : (s.fatal k w).pause = s.pause := rfl
@[simp] theorem State.fatal_loadOpen (k : ErrorKind) (w : Word) : (s.fatal k w).loadOpen = s.loadOpen := rfl
@[simp] theorem State.fatal_pending (k : ErrorKind) (w : Word) : (s.fatal k w).pending = s.pending := rfl
@[simp] theorem State.fatal_draws (k : ErrorKind) (w : Word) : (s.fatal k w).draws = s.draws := rfl

-- keyWaitIssue
@[simp] theorem keyWaitIssue_v : (keyWaitIssue s).v = s.v := rfl
@[simp] theorem keyWaitIssue_i : (keyWaitIssue s).i = s.i := rfl
@[simp] theorem keyWaitIssue_pc : (keyWaitIssue s).pc = s.pc := rfl
@[simp] theorem keyWaitIssue_dt : (keyWaitIssue s).dt = s.dt := rfl
@[simp] theorem keyWaitIssue_st : (keyWaitIssue s).st = s.st := rfl
@[simp] theorem keyWaitIssue_stack : (keyWaitIssue s).stack = s.stack := rfl
@[simp] theorem keyWaitIssue_sp : (keyWaitIssue s).sp = s.sp := rfl
@[simp] theorem keyWaitIssue_keypad : (keyWaitIssue s).keypad = s.keypad := rfl
@[simp] theorem keyWaitIssue_prevKeypad : (keyWaitIssue s).prevKeypad = s.prevKeypad := rfl
@[simp] theorem keyWaitIssue_waitingForKey : (keyWaitIssue s).waitingForKey = true := rfl
@[simp] theorem keyWaitIssue_spinning : (keyWaitIssue s).spinning = s.spinning := rfl
@[simp] theorem keyWaitIssue_drawFlag : (keyWaitIssue s).drawFlag = s.drawFlag := rfl
@[simp] theorem keyWaitIssue_halt : (keyWaitIssue s).halt = s.halt := rfl
@[simp] theorem keyWaitIssue_faultCause : (keyWaitIssue s).faultCause = s.faultCause := rfl
@[simp] theorem keyWaitIssue_mem : (keyWaitIssue s).mem = s.mem := rfl
@[simp] theorem keyWaitIssue_config : (keyWaitIssue s).config = s.config := rfl
@[simp] theorem keyWaitIssue_rewind : (keyWaitIssue s).rewind = s.rewind := rfl
@[simp] theorem keyWaitIssue_log : (keyWaitIssue s).log = s.log := rfl
@[simp] theorem keyWaitIssue_keypadIn : (keyWaitIssue s).keypadIn = s.keypadIn := rfl
@[simp] theorem keyWaitIssue_pause : (keyWaitIssue s).pause = s.pause := rfl
@[simp] theorem keyWaitIssue_loadOpen : (keyWaitIssue s).loadOpen = s.loadOpen := rfl
@[simp] theorem keyWaitIssue_pending : (keyWaitIssue s).pending = s.pending := rfl
@[simp] theorem keyWaitIssue_draws : (keyWaitIssue s).draws = s.draws := rfl

-- sample
@[simp] theorem State.sample_v : (s.sample).v = s.v := rfl
@[simp] theorem State.sample_i : (s.sample).i = s.i := rfl
@[simp] theorem State.sample_pc : (s.sample).pc = s.pc := rfl
@[simp] theorem State.sample_dt : (s.sample).dt = s.dt := rfl
@[simp] theorem State.sample_st : (s.sample).st = s.st := rfl
@[simp] theorem State.sample_stack : (s.sample).stack = s.stack := rfl
@[simp] theorem State.sample_sp : (s.sample).sp = s.sp := rfl
@[simp] theorem State.sample_keypad : (s.sample).keypad = s.keypadIn := rfl
@[simp] theorem State.sample_prevKeypad : (s.sample).prevKeypad = s.prevKeypad := rfl
@[simp] theorem State.sample_waitingForKey : (s.sample).waitingForKey = s.waitingForKey := rfl
@[simp] theorem State.sample_spinning : (s.sample).spinning = s.spinning := rfl
@[simp] theorem State.sample_drawFlag : (s.sample).drawFlag = s.drawFlag := rfl
@[simp] theorem State.sample_halt : (s.sample).halt = s.halt := rfl
@[simp] theorem State.sample_faultCause : (s.sample).faultCause = s.faultCause := rfl
@[simp] theorem State.sample_mem : (s.sample).mem = s.mem := rfl
@[simp] theorem State.sample_config : (s.sample).config = s.config := rfl
@[simp] theorem State.sample_rewind : (s.sample).rewind = s.rewind := rfl
@[simp] theorem State.sample_log : (s.sample).log = s.log := rfl
@[simp] theorem State.sample_keypadIn : (s.sample).keypadIn = s.keypadIn := rfl
@[simp] theorem State.sample_pause : (s.sample).pause = s.pause := rfl
@[simp] theorem State.sample_loadOpen : (s.sample).loadOpen = false := rfl
@[simp] theorem State.sample_pending : (s.sample).pending = s.pending := rfl
@[simp] theorem State.sample_draws : (s.sample).draws = s.draws := rfl

-- dtTick
@[simp] theorem State.dtTick_v : (s.dtTick).v = s.v := rfl
@[simp] theorem State.dtTick_i : (s.dtTick).i = s.i := rfl
@[simp] theorem State.dtTick_pc : (s.dtTick).pc = s.pc := rfl
@[simp] theorem State.dtTick_dt : (s.dtTick).dt = countdown s.dt := rfl
@[simp] theorem State.dtTick_st : (s.dtTick).st = s.st := rfl
@[simp] theorem State.dtTick_stack : (s.dtTick).stack = s.stack := rfl
@[simp] theorem State.dtTick_sp : (s.dtTick).sp = s.sp := rfl
@[simp] theorem State.dtTick_keypad : (s.dtTick).keypad = s.keypad := rfl
@[simp] theorem State.dtTick_prevKeypad : (s.dtTick).prevKeypad = s.prevKeypad := rfl
@[simp] theorem State.dtTick_waitingForKey : (s.dtTick).waitingForKey = s.waitingForKey := rfl
@[simp] theorem State.dtTick_spinning : (s.dtTick).spinning = s.spinning := rfl
@[simp] theorem State.dtTick_drawFlag : (s.dtTick).drawFlag = s.drawFlag := rfl
@[simp] theorem State.dtTick_halt : (s.dtTick).halt = s.halt := rfl
@[simp] theorem State.dtTick_faultCause : (s.dtTick).faultCause = s.faultCause := rfl
@[simp] theorem State.dtTick_mem : (s.dtTick).mem = s.mem := rfl
@[simp] theorem State.dtTick_config : (s.dtTick).config = s.config := rfl
@[simp] theorem State.dtTick_rewind : (s.dtTick).rewind = s.rewind := rfl
@[simp] theorem State.dtTick_log : (s.dtTick).log = s.log := rfl
@[simp] theorem State.dtTick_keypadIn : (s.dtTick).keypadIn = s.keypadIn := rfl
@[simp] theorem State.dtTick_pause : (s.dtTick).pause = s.pause := rfl
@[simp] theorem State.dtTick_loadOpen : (s.dtTick).loadOpen = s.loadOpen := rfl
@[simp] theorem State.dtTick_pending : (s.dtTick).pending = s.pending := rfl
@[simp] theorem State.dtTick_draws : (s.dtTick).draws = s.draws := rfl

-- stTick
@[simp] theorem State.stTick_v : (s.stTick).v = s.v := rfl
@[simp] theorem State.stTick_i : (s.stTick).i = s.i := rfl
@[simp] theorem State.stTick_pc : (s.stTick).pc = s.pc := rfl
@[simp] theorem State.stTick_dt : (s.stTick).dt = s.dt := rfl
@[simp] theorem State.stTick_st : (s.stTick).st = countdown s.st := rfl
@[simp] theorem State.stTick_stack : (s.stTick).stack = s.stack := rfl
@[simp] theorem State.stTick_sp : (s.stTick).sp = s.sp := rfl
@[simp] theorem State.stTick_keypad : (s.stTick).keypad = s.keypad := rfl
@[simp] theorem State.stTick_prevKeypad : (s.stTick).prevKeypad = s.prevKeypad := rfl
@[simp] theorem State.stTick_waitingForKey : (s.stTick).waitingForKey = s.waitingForKey := rfl
@[simp] theorem State.stTick_spinning : (s.stTick).spinning = s.spinning := rfl
@[simp] theorem State.stTick_drawFlag : (s.stTick).drawFlag = s.drawFlag := rfl
@[simp] theorem State.stTick_halt : (s.stTick).halt = s.halt := rfl
@[simp] theorem State.stTick_faultCause : (s.stTick).faultCause = s.faultCause := rfl
@[simp] theorem State.stTick_mem : (s.stTick).mem = s.mem := rfl
@[simp] theorem State.stTick_config : (s.stTick).config = s.config := rfl
@[simp] theorem State.stTick_rewind : (s.stTick).rewind = s.rewind := rfl
@[simp] theorem State.stTick_log : (s.stTick).log = s.log := rfl
@[simp] theorem State.stTick_keypadIn : (s.stTick).keypadIn = s.keypadIn := rfl
@[simp] theorem State.stTick_pause : (s.stTick).pause = s.pause := rfl
@[simp] theorem State.stTick_loadOpen : (s.stTick).loadOpen = s.loadOpen := rfl
@[simp] theorem State.stTick_pending : (s.stTick).pending = s.pending := rfl
@[simp] theorem State.stTick_draws : (s.stTick).draws = s.draws := rfl

-- Updates built from others.
theorem State.advance_eq : s.advance = s.goto (s.pc + 2) := rfl
theorem State.skipIf_eq (b : Bool) : s.skipIf b = s.goto (if b then s.pc + 4 else s.pc + 2) := rfl
theorem State.setRegFlag_eq (x : RegNum) (r : Byte) (f : Bool) :
    s.setRegFlag x r f = (s.setReg x r).setReg vF (flagByte f) := rfl
theorem State.logEvent_eq (sev : Severity) (k : ErrorKind) (w : Word) :
    s.logEvent sev k w = s.emit (.cpu sev k.code s.pc w) := rfl
theorem State.reReport_eq : s.reReport = s.emit (.cpu .fatal s.faultCause s.pc s.reportWord) := rfl

@[simp] theorem State.advance_v : (s.advance).v = s.v := rfl
@[simp] theorem State.advance_i : (s.advance).i = s.i := rfl
@[simp] theorem State.advance_dt : (s.advance).dt = s.dt := rfl
@[simp] theorem State.advance_st : (s.advance).st = s.st := rfl
@[simp] theorem State.advance_stack : (s.advance).stack = s.stack := rfl
@[simp] theorem State.advance_sp : (s.advance).sp = s.sp := rfl
@[simp] theorem State.advance_keypad : (s.advance).keypad = s.keypad := rfl
@[simp] theorem State.advance_prevKeypad : (s.advance).prevKeypad = s.prevKeypad := rfl
@[simp] theorem State.advance_waitingForKey : (s.advance).waitingForKey = s.waitingForKey := rfl
@[simp] theorem State.advance_spinning : (s.advance).spinning = s.spinning := rfl
@[simp] theorem State.advance_drawFlag : (s.advance).drawFlag = s.drawFlag := rfl
@[simp] theorem State.advance_halt : (s.advance).halt = s.halt := rfl
@[simp] theorem State.advance_faultCause : (s.advance).faultCause = s.faultCause := rfl
@[simp] theorem State.advance_mem : (s.advance).mem = s.mem := rfl
@[simp] theorem State.advance_config : (s.advance).config = s.config := rfl
@[simp] theorem State.advance_rewind : (s.advance).rewind = s.rewind := rfl
@[simp] theorem State.advance_log : (s.advance).log = s.log := rfl
@[simp] theorem State.advance_keypadIn : (s.advance).keypadIn = s.keypadIn := rfl
@[simp] theorem State.advance_pause : (s.advance).pause = s.pause := rfl
@[simp] theorem State.advance_loadOpen : (s.advance).loadOpen = s.loadOpen := rfl
@[simp] theorem State.advance_pending : (s.advance).pending = s.pending := rfl
@[simp] theorem State.advance_draws : (s.advance).draws = s.draws := rfl

@[simp] theorem State.skipIf_v (b : Bool) : (s.skipIf b).v = s.v := rfl
@[simp] theorem State.skipIf_i (b : Bool) : (s.skipIf b).i = s.i := rfl
@[simp] theorem State.skipIf_dt (b : Bool) : (s.skipIf b).dt = s.dt := rfl
@[simp] theorem State.skipIf_st (b : Bool) : (s.skipIf b).st = s.st := rfl
@[simp] theorem State.skipIf_stack (b : Bool) : (s.skipIf b).stack = s.stack := rfl
@[simp] theorem State.skipIf_sp (b : Bool) : (s.skipIf b).sp = s.sp := rfl
@[simp] theorem State.skipIf_keypad (b : Bool) : (s.skipIf b).keypad = s.keypad := rfl
@[simp] theorem State.skipIf_prevKeypad (b : Bool) : (s.skipIf b).prevKeypad = s.prevKeypad := rfl
@[simp] theorem State.skipIf_waitingForKey (b : Bool) : (s.skipIf b).waitingForKey = s.waitingForKey := rfl
@[simp] theorem State.skipIf_spinning (b : Bool) : (s.skipIf b).spinning = s.spinning := rfl
@[simp] theorem State.skipIf_drawFlag (b : Bool) : (s.skipIf b).drawFlag = s.drawFlag := rfl
@[simp] theorem State.skipIf_halt (b : Bool) : (s.skipIf b).halt = s.halt := rfl
@[simp] theorem State.skipIf_faultCause (b : Bool) : (s.skipIf b).faultCause = s.faultCause := rfl
@[simp] theorem State.skipIf_mem (b : Bool) : (s.skipIf b).mem = s.mem := rfl
@[simp] theorem State.skipIf_config (b : Bool) : (s.skipIf b).config = s.config := rfl
@[simp] theorem State.skipIf_rewind (b : Bool) : (s.skipIf b).rewind = s.rewind := rfl
@[simp] theorem State.skipIf_log (b : Bool) : (s.skipIf b).log = s.log := rfl
@[simp] theorem State.skipIf_keypadIn (b : Bool) : (s.skipIf b).keypadIn = s.keypadIn := rfl
@[simp] theorem State.skipIf_pause (b : Bool) : (s.skipIf b).pause = s.pause := rfl
@[simp] theorem State.skipIf_loadOpen (b : Bool) : (s.skipIf b).loadOpen = s.loadOpen := rfl
@[simp] theorem State.skipIf_pending (b : Bool) : (s.skipIf b).pending = s.pending := rfl
@[simp] theorem State.skipIf_draws (b : Bool) : (s.skipIf b).draws = s.draws := rfl

@[simp] theorem State.setRegFlag_i (x : RegNum) (r : Byte) (f : Bool) : (s.setRegFlag x r f).i = s.i := rfl
@[simp] theorem State.setRegFlag_pc (x : RegNum) (r : Byte) (f : Bool) : (s.setRegFlag x r f).pc = s.pc := rfl
@[simp] theorem State.setRegFlag_dt (x : RegNum) (r : Byte) (f : Bool) : (s.setRegFlag x r f).dt = s.dt := rfl
@[simp] theorem State.setRegFlag_st (x : RegNum) (r : Byte) (f : Bool) : (s.setRegFlag x r f).st = s.st := rfl
@[simp] theorem State.setRegFlag_stack (x : RegNum) (r : Byte) (f : Bool) : (s.setRegFlag x r f).stack = s.stack := rfl
@[simp] theorem State.setRegFlag_sp (x : RegNum) (r : Byte) (f : Bool) : (s.setRegFlag x r f).sp = s.sp := rfl
@[simp] theorem State.setRegFlag_keypad (x : RegNum) (r : Byte) (f : Bool) : (s.setRegFlag x r f).keypad = s.keypad := rfl
@[simp] theorem State.setRegFlag_prevKeypad (x : RegNum) (r : Byte) (f : Bool) : (s.setRegFlag x r f).prevKeypad = s.prevKeypad := rfl
@[simp] theorem State.setRegFlag_waitingForKey (x : RegNum) (r : Byte) (f : Bool) : (s.setRegFlag x r f).waitingForKey = s.waitingForKey := rfl
@[simp] theorem State.setRegFlag_spinning (x : RegNum) (r : Byte) (f : Bool) : (s.setRegFlag x r f).spinning = s.spinning := rfl
@[simp] theorem State.setRegFlag_drawFlag (x : RegNum) (r : Byte) (f : Bool) : (s.setRegFlag x r f).drawFlag = s.drawFlag := rfl
@[simp] theorem State.setRegFlag_halt (x : RegNum) (r : Byte) (f : Bool) : (s.setRegFlag x r f).halt = s.halt := rfl
@[simp] theorem State.setRegFlag_faultCause (x : RegNum) (r : Byte) (f : Bool) : (s.setRegFlag x r f).faultCause = s.faultCause := rfl
@[simp] theorem State.setRegFlag_mem (x : RegNum) (r : Byte) (f : Bool) : (s.setRegFlag x r f).mem = s.mem := rfl
@[simp] theorem State.setRegFlag_config (x : RegNum) (r : Byte) (f : Bool) : (s.setRegFlag x r f).config = s.config := rfl
@[simp] theorem State.setRegFlag_rewind (x : RegNum) (r : Byte) (f : Bool) : (s.setRegFlag x r f).rewind = s.rewind := rfl
@[simp] theorem State.setRegFlag_log (x : RegNum) (r : Byte) (f : Bool) : (s.setRegFlag x r f).log = s.log := rfl
@[simp] theorem State.setRegFlag_keypadIn (x : RegNum) (r : Byte) (f : Bool) : (s.setRegFlag x r f).keypadIn = s.keypadIn := rfl
@[simp] theorem State.setRegFlag_pause (x : RegNum) (r : Byte) (f : Bool) : (s.setRegFlag x r f).pause = s.pause := rfl
@[simp] theorem State.setRegFlag_loadOpen (x : RegNum) (r : Byte) (f : Bool) : (s.setRegFlag x r f).loadOpen = s.loadOpen := rfl
@[simp] theorem State.setRegFlag_pending (x : RegNum) (r : Byte) (f : Bool) : (s.setRegFlag x r f).pending = s.pending := rfl
@[simp] theorem State.setRegFlag_draws (x : RegNum) (r : Byte) (f : Bool) : (s.setRegFlag x r f).draws = s.draws := rfl

@[simp] theorem State.logEvent_v (sev : Severity) (k : ErrorKind) (w : Word) : (s.logEvent sev k w).v = s.v := rfl
@[simp] theorem State.logEvent_i (sev : Severity) (k : ErrorKind) (w : Word) : (s.logEvent sev k w).i = s.i := rfl
@[simp] theorem State.logEvent_pc (sev : Severity) (k : ErrorKind) (w : Word) : (s.logEvent sev k w).pc = s.pc := rfl
@[simp] theorem State.logEvent_dt (sev : Severity) (k : ErrorKind) (w : Word) : (s.logEvent sev k w).dt = s.dt := rfl
@[simp] theorem State.logEvent_st (sev : Severity) (k : ErrorKind) (w : Word) : (s.logEvent sev k w).st = s.st := rfl
@[simp] theorem State.logEvent_stack (sev : Severity) (k : ErrorKind) (w : Word) : (s.logEvent sev k w).stack = s.stack := rfl
@[simp] theorem State.logEvent_sp (sev : Severity) (k : ErrorKind) (w : Word) : (s.logEvent sev k w).sp = s.sp := rfl
@[simp] theorem State.logEvent_keypad (sev : Severity) (k : ErrorKind) (w : Word) : (s.logEvent sev k w).keypad = s.keypad := rfl
@[simp] theorem State.logEvent_prevKeypad (sev : Severity) (k : ErrorKind) (w : Word) : (s.logEvent sev k w).prevKeypad = s.prevKeypad := rfl
@[simp] theorem State.logEvent_waitingForKey (sev : Severity) (k : ErrorKind) (w : Word) : (s.logEvent sev k w).waitingForKey = s.waitingForKey := rfl
@[simp] theorem State.logEvent_spinning (sev : Severity) (k : ErrorKind) (w : Word) : (s.logEvent sev k w).spinning = s.spinning := rfl
@[simp] theorem State.logEvent_drawFlag (sev : Severity) (k : ErrorKind) (w : Word) : (s.logEvent sev k w).drawFlag = s.drawFlag := rfl
@[simp] theorem State.logEvent_halt (sev : Severity) (k : ErrorKind) (w : Word) : (s.logEvent sev k w).halt = s.halt := rfl
@[simp] theorem State.logEvent_faultCause (sev : Severity) (k : ErrorKind) (w : Word) : (s.logEvent sev k w).faultCause = s.faultCause := rfl
@[simp] theorem State.logEvent_mem (sev : Severity) (k : ErrorKind) (w : Word) : (s.logEvent sev k w).mem = s.mem := rfl
@[simp] theorem State.logEvent_config (sev : Severity) (k : ErrorKind) (w : Word) : (s.logEvent sev k w).config = s.config := rfl
@[simp] theorem State.logEvent_rewind (sev : Severity) (k : ErrorKind) (w : Word) : (s.logEvent sev k w).rewind = s.rewind := rfl
@[simp] theorem State.logEvent_keypadIn (sev : Severity) (k : ErrorKind) (w : Word) : (s.logEvent sev k w).keypadIn = s.keypadIn := rfl
@[simp] theorem State.logEvent_pause (sev : Severity) (k : ErrorKind) (w : Word) : (s.logEvent sev k w).pause = s.pause := rfl
@[simp] theorem State.logEvent_loadOpen (sev : Severity) (k : ErrorKind) (w : Word) : (s.logEvent sev k w).loadOpen = s.loadOpen := rfl
@[simp] theorem State.logEvent_pending (sev : Severity) (k : ErrorKind) (w : Word) : (s.logEvent sev k w).pending = s.pending := rfl
@[simp] theorem State.logEvent_draws (sev : Severity) (k : ErrorKind) (w : Word) : (s.logEvent sev k w).draws = s.draws := rfl

@[simp] theorem State.reReport_v : (s.reReport).v = s.v := rfl
@[simp] theorem State.reReport_i : (s.reReport).i = s.i := rfl
@[simp] theorem State.reReport_pc : (s.reReport).pc = s.pc := rfl
@[simp] theorem State.reReport_dt : (s.reReport).dt = s.dt := rfl
@[simp] theorem State.reReport_st : (s.reReport).st = s.st := rfl
@[simp] theorem State.reReport_stack : (s.reReport).stack = s.stack := rfl
@[simp] theorem State.reReport_sp : (s.reReport).sp = s.sp := rfl
@[simp] theorem State.reReport_keypad : (s.reReport).keypad = s.keypad := rfl
@[simp] theorem State.reReport_prevKeypad : (s.reReport).prevKeypad = s.prevKeypad := rfl
@[simp] theorem State.reReport_waitingForKey : (s.reReport).waitingForKey = s.waitingForKey := rfl
@[simp] theorem State.reReport_spinning : (s.reReport).spinning = s.spinning := rfl
@[simp] theorem State.reReport_drawFlag : (s.reReport).drawFlag = s.drawFlag := rfl
@[simp] theorem State.reReport_halt : (s.reReport).halt = s.halt := rfl
@[simp] theorem State.reReport_faultCause : (s.reReport).faultCause = s.faultCause := rfl
@[simp] theorem State.reReport_mem : (s.reReport).mem = s.mem := rfl
@[simp] theorem State.reReport_config : (s.reReport).config = s.config := rfl
@[simp] theorem State.reReport_rewind : (s.reReport).rewind = s.rewind := rfl
@[simp] theorem State.reReport_keypadIn : (s.reReport).keypadIn = s.keypadIn := rfl
@[simp] theorem State.reReport_pause : (s.reReport).pause = s.pause := rfl
@[simp] theorem State.reReport_loadOpen : (s.reReport).loadOpen = s.loadOpen := rfl
@[simp] theorem State.reReport_pending : (s.reReport).pending = s.pending := rfl
@[simp] theorem State.reReport_draws : (s.reReport).draws = s.draws := rfl

@[simp] theorem State.advance_pc : s.advance.pc = s.pc + 2 := rfl
@[simp] theorem State.skipIf_pc (b : Bool) : (s.skipIf b).pc = if b then s.pc + 4 else s.pc + 2 := rfl
@[simp] theorem State.logEvent_log (sev : Severity) (k : ErrorKind) (w : Word) :
    (s.logEvent sev k w).log = s.log ++ [.cpu sev k.code s.pc w] := rfl
@[simp] theorem State.reReport_log : s.reReport.log = s.log ++ [.cpu .fatal s.faultCause s.pc s.reportWord] := rfl

/-- The optional event changes the log alone (R86). -/
theorem State.logUnofficial_eq (w : Word) : s.logUnofficial w = { s with log := (s.logUnofficial w).log } := by
  unfold State.logUnofficial
  split <;> rfl

@[simp] theorem State.logUnofficial_v (w : Word) : (s.logUnofficial w).v = s.v := by
  rw [s.logUnofficial_eq w]
@[simp] theorem State.logUnofficial_i (w : Word) : (s.logUnofficial w).i = s.i := by
  rw [s.logUnofficial_eq w]
@[simp] theorem State.logUnofficial_pc (w : Word) : (s.logUnofficial w).pc = s.pc := by
  rw [s.logUnofficial_eq w]
@[simp] theorem State.logUnofficial_dt (w : Word) : (s.logUnofficial w).dt = s.dt := by
  rw [s.logUnofficial_eq w]
@[simp] theorem State.logUnofficial_st (w : Word) : (s.logUnofficial w).st = s.st := by
  rw [s.logUnofficial_eq w]
@[simp] theorem State.logUnofficial_stack (w : Word) : (s.logUnofficial w).stack = s.stack := by
  rw [s.logUnofficial_eq w]
@[simp] theorem State.logUnofficial_sp (w : Word) : (s.logUnofficial w).sp = s.sp := by
  rw [s.logUnofficial_eq w]
@[simp] theorem State.logUnofficial_keypad (w : Word) : (s.logUnofficial w).keypad = s.keypad := by
  rw [s.logUnofficial_eq w]
@[simp] theorem State.logUnofficial_prevKeypad (w : Word) : (s.logUnofficial w).prevKeypad = s.prevKeypad := by
  rw [s.logUnofficial_eq w]
@[simp] theorem State.logUnofficial_waitingForKey (w : Word) : (s.logUnofficial w).waitingForKey = s.waitingForKey := by
  rw [s.logUnofficial_eq w]
@[simp] theorem State.logUnofficial_spinning (w : Word) : (s.logUnofficial w).spinning = s.spinning := by
  rw [s.logUnofficial_eq w]
@[simp] theorem State.logUnofficial_drawFlag (w : Word) : (s.logUnofficial w).drawFlag = s.drawFlag := by
  rw [s.logUnofficial_eq w]
@[simp] theorem State.logUnofficial_halt (w : Word) : (s.logUnofficial w).halt = s.halt := by
  rw [s.logUnofficial_eq w]
@[simp] theorem State.logUnofficial_faultCause (w : Word) : (s.logUnofficial w).faultCause = s.faultCause := by
  rw [s.logUnofficial_eq w]
@[simp] theorem State.logUnofficial_mem (w : Word) : (s.logUnofficial w).mem = s.mem := by
  rw [s.logUnofficial_eq w]
@[simp] theorem State.logUnofficial_config (w : Word) : (s.logUnofficial w).config = s.config := by
  rw [s.logUnofficial_eq w]
@[simp] theorem State.logUnofficial_rewind (w : Word) : (s.logUnofficial w).rewind = s.rewind := by
  rw [s.logUnofficial_eq w]
@[simp] theorem State.logUnofficial_keypadIn (w : Word) : (s.logUnofficial w).keypadIn = s.keypadIn := by
  rw [s.logUnofficial_eq w]
@[simp] theorem State.logUnofficial_pause (w : Word) : (s.logUnofficial w).pause = s.pause := by
  rw [s.logUnofficial_eq w]
@[simp] theorem State.logUnofficial_loadOpen (w : Word) : (s.logUnofficial w).loadOpen = s.loadOpen := by
  rw [s.logUnofficial_eq w]
@[simp] theorem State.logUnofficial_pending (w : Word) : (s.logUnofficial w).pending = s.pending := by
  rw [s.logUnofficial_eq w]
@[simp] theorem State.logUnofficial_draws (w : Word) : (s.logUnofficial w).draws = s.draws := by
  rw [s.logUnofficial_eq w]

/-- Loading registers changes the registers alone. -/
theorem State.setRegs_eq (bs : List Byte) : ∀ (s : State) (k : Nat), s.setRegs k bs = { s with v := (s.setRegs k bs).v } := by
  induction bs with
  | nil => intro s k; rfl
  | cons b rest ih =>
    intro s k
    unfold State.setRegs
    rw [ih]
    rfl

@[simp] theorem State.setRegs_i (k : Nat) (bs : List Byte) : (s.setRegs k bs).i = s.i := by
  rw [State.setRegs_eq bs s k]
@[simp] theorem State.setRegs_pc (k : Nat) (bs : List Byte) : (s.setRegs k bs).pc = s.pc := by
  rw [State.setRegs_eq bs s k]
@[simp] theorem State.setRegs_dt (k : Nat) (bs : List Byte) : (s.setRegs k bs).dt = s.dt := by
  rw [State.setRegs_eq bs s k]
@[simp] theorem State.setRegs_st (k : Nat) (bs : List Byte) : (s.setRegs k bs).st = s.st := by
  rw [State.setRegs_eq bs s k]
@[simp] theorem State.setRegs_stack (k : Nat) (bs : List Byte) : (s.setRegs k bs).stack = s.stack := by
  rw [State.setRegs_eq bs s k]
@[simp] theorem State.setRegs_sp (k : Nat) (bs : List Byte) : (s.setRegs k bs).sp = s.sp := by
  rw [State.setRegs_eq bs s k]
@[simp] theorem State.setRegs_keypad (k : Nat) (bs : List Byte) : (s.setRegs k bs).keypad = s.keypad := by
  rw [State.setRegs_eq bs s k]
@[simp] theorem State.setRegs_prevKeypad (k : Nat) (bs : List Byte) : (s.setRegs k bs).prevKeypad = s.prevKeypad := by
  rw [State.setRegs_eq bs s k]
@[simp] theorem State.setRegs_waitingForKey (k : Nat) (bs : List Byte) : (s.setRegs k bs).waitingForKey = s.waitingForKey := by
  rw [State.setRegs_eq bs s k]
@[simp] theorem State.setRegs_spinning (k : Nat) (bs : List Byte) : (s.setRegs k bs).spinning = s.spinning := by
  rw [State.setRegs_eq bs s k]
@[simp] theorem State.setRegs_drawFlag (k : Nat) (bs : List Byte) : (s.setRegs k bs).drawFlag = s.drawFlag := by
  rw [State.setRegs_eq bs s k]
@[simp] theorem State.setRegs_halt (k : Nat) (bs : List Byte) : (s.setRegs k bs).halt = s.halt := by
  rw [State.setRegs_eq bs s k]
@[simp] theorem State.setRegs_faultCause (k : Nat) (bs : List Byte) : (s.setRegs k bs).faultCause = s.faultCause := by
  rw [State.setRegs_eq bs s k]
@[simp] theorem State.setRegs_mem (k : Nat) (bs : List Byte) : (s.setRegs k bs).mem = s.mem := by
  rw [State.setRegs_eq bs s k]
@[simp] theorem State.setRegs_config (k : Nat) (bs : List Byte) : (s.setRegs k bs).config = s.config := by
  rw [State.setRegs_eq bs s k]
@[simp] theorem State.setRegs_rewind (k : Nat) (bs : List Byte) : (s.setRegs k bs).rewind = s.rewind := by
  rw [State.setRegs_eq bs s k]
@[simp] theorem State.setRegs_log (k : Nat) (bs : List Byte) : (s.setRegs k bs).log = s.log := by
  rw [State.setRegs_eq bs s k]
@[simp] theorem State.setRegs_keypadIn (k : Nat) (bs : List Byte) : (s.setRegs k bs).keypadIn = s.keypadIn := by
  rw [State.setRegs_eq bs s k]
@[simp] theorem State.setRegs_pause (k : Nat) (bs : List Byte) : (s.setRegs k bs).pause = s.pause := by
  rw [State.setRegs_eq bs s k]
@[simp] theorem State.setRegs_loadOpen (k : Nat) (bs : List Byte) : (s.setRegs k bs).loadOpen = s.loadOpen := by
  rw [State.setRegs_eq bs s k]
@[simp] theorem State.setRegs_pending (k : Nat) (bs : List Byte) : (s.setRegs k bs).pending = s.pending := by
  rw [State.setRegs_eq bs s k]
@[simp] theorem State.setRegs_draws (k : Nat) (bs : List Byte) : (s.setRegs k bs).draws = s.draws := by
  rw [State.setRegs_eq bs s k]

/-- The end of a tick changes `prev_keypad` and the rewind ring alone. -/
theorem State.finish_eq (a : Addr) (d : DecodedInstruction) :
    s.finish a d = { s with prevKeypad := s.keypad, rewind := (s.finish a d).rewind } := by
  unfold State.finish
  dsimp only
  split <;> rfl

@[simp] theorem State.finish_v (a : Addr) (d : DecodedInstruction) : (s.finish a d).v = s.v := by
  rw [s.finish_eq a d]
@[simp] theorem State.finish_i (a : Addr) (d : DecodedInstruction) : (s.finish a d).i = s.i := by
  rw [s.finish_eq a d]
@[simp] theorem State.finish_pc (a : Addr) (d : DecodedInstruction) : (s.finish a d).pc = s.pc := by
  rw [s.finish_eq a d]
@[simp] theorem State.finish_dt (a : Addr) (d : DecodedInstruction) : (s.finish a d).dt = s.dt := by
  rw [s.finish_eq a d]
@[simp] theorem State.finish_st (a : Addr) (d : DecodedInstruction) : (s.finish a d).st = s.st := by
  rw [s.finish_eq a d]
@[simp] theorem State.finish_stack (a : Addr) (d : DecodedInstruction) : (s.finish a d).stack = s.stack := by
  rw [s.finish_eq a d]
@[simp] theorem State.finish_sp (a : Addr) (d : DecodedInstruction) : (s.finish a d).sp = s.sp := by
  rw [s.finish_eq a d]
@[simp] theorem State.finish_keypad (a : Addr) (d : DecodedInstruction) : (s.finish a d).keypad = s.keypad := by
  rw [s.finish_eq a d]
@[simp] theorem State.finish_waitingForKey (a : Addr) (d : DecodedInstruction) : (s.finish a d).waitingForKey = s.waitingForKey := by
  rw [s.finish_eq a d]
@[simp] theorem State.finish_spinning (a : Addr) (d : DecodedInstruction) : (s.finish a d).spinning = s.spinning := by
  rw [s.finish_eq a d]
@[simp] theorem State.finish_drawFlag (a : Addr) (d : DecodedInstruction) : (s.finish a d).drawFlag = s.drawFlag := by
  rw [s.finish_eq a d]
@[simp] theorem State.finish_halt (a : Addr) (d : DecodedInstruction) : (s.finish a d).halt = s.halt := by
  rw [s.finish_eq a d]
@[simp] theorem State.finish_faultCause (a : Addr) (d : DecodedInstruction) : (s.finish a d).faultCause = s.faultCause := by
  rw [s.finish_eq a d]
@[simp] theorem State.finish_mem (a : Addr) (d : DecodedInstruction) : (s.finish a d).mem = s.mem := by
  rw [s.finish_eq a d]
@[simp] theorem State.finish_config (a : Addr) (d : DecodedInstruction) : (s.finish a d).config = s.config := by
  rw [s.finish_eq a d]
@[simp] theorem State.finish_log (a : Addr) (d : DecodedInstruction) : (s.finish a d).log = s.log := by
  rw [s.finish_eq a d]
@[simp] theorem State.finish_keypadIn (a : Addr) (d : DecodedInstruction) : (s.finish a d).keypadIn = s.keypadIn := by
  rw [s.finish_eq a d]
@[simp] theorem State.finish_pause (a : Addr) (d : DecodedInstruction) : (s.finish a d).pause = s.pause := by
  rw [s.finish_eq a d]
@[simp] theorem State.finish_loadOpen (a : Addr) (d : DecodedInstruction) : (s.finish a d).loadOpen = s.loadOpen := by
  rw [s.finish_eq a d]
@[simp] theorem State.finish_pending (a : Addr) (d : DecodedInstruction) : (s.finish a d).pending = s.pending := by
  rw [s.finish_eq a d]
@[simp] theorem State.finish_draws (a : Addr) (d : DecodedInstruction) : (s.finish a d).draws = s.draws := by
  rw [s.finish_eq a d]
@[simp] theorem State.finish_prevKeypad (a : Addr) (d : DecodedInstruction) : (s.finish a d).prevKeypad = s.keypad := by
  rw [s.finish_eq a d]

theorem State.finish_rewind (a : Addr) (d : DecodedInstruction) :
    (s.finish a d).rewind =
      if s.config.rewindDepth = 0 then s.rewind else (s.frame a d :: s.rewind).take s.config.rewindDepth := by
  unfold State.finish
  dsimp only
  split <;> rfl

-- Registers.

/-- Reading a register after writing one (10_state.md R10: no register is hardwired or aliased). -/
@[simp] theorem State.reg_setReg (x y : RegNum) (b : Byte) : (s.setReg x b).reg y = if y = x then b else s.reg y := by
  unfold State.reg State.setReg
  by_cases h : y = x
  · subst h; simp
  · have h' : x.toNat ≠ y.toNat := fun e => h (BitVec.eq_of_toNat_eq e.symm)
    simp [h, h']

/-- A register read depends on the registers alone. -/
theorem State.reg_congr {s t : State} (h : s.v = t.v) (x : RegNum) : s.reg x = t.reg x := by
  simp only [State.reg, h]

/-- Registers are equal when every register reads equal. -/
theorem State.v_ext {s t : State} (h : ∀ x, s.reg x = t.reg x) : s.v = t.v := by
  apply Vector.ext
  intro k hk
  have := h (BitVec.ofNat 4 k)
  simpa [State.reg, Nat.mod_eq_of_lt hk] using this

@[simp] theorem State.goto_reg (a : Addr) (x : RegNum) : (s.goto a).reg x = s.reg x := rfl
@[simp] theorem State.advance_reg (x : RegNum) : (s.advance).reg x = s.reg x := rfl
@[simp] theorem State.skipIf_reg (b : Bool) (x : RegNum) : (s.skipIf b).reg x = s.reg x := rfl
@[simp] theorem State.jump_reg (a : Addr) (x : RegNum) : (s.jump a).reg x = s.reg x := rfl
@[simp] theorem State.push_reg (a : Addr) (x : RegNum) : (s.push a).reg x = s.reg x := rfl
@[simp] theorem State.pop_reg (x : RegNum) : (s.pop).reg x = s.reg x := rfl
@[simp] theorem State.emit_reg (e : LogEvent) (x : RegNum) : (s.emit e).reg x = s.reg x := rfl
@[simp] theorem State.logEvent_reg (sev : Severity) (k : ErrorKind) (w : Word) (x : RegNum) : (s.logEvent sev k w).reg x = s.reg x := rfl
@[simp] theorem State.fatal_reg (k : ErrorKind) (w : Word) (x : RegNum) : (s.fatal k w).reg x = s.reg x := rfl
@[simp] theorem State.sample_reg (x : RegNum) : (s.sample).reg x = s.reg x := rfl
@[simp] theorem State.logUnofficial_reg (w : Word) (x : RegNum) : (s.logUnofficial w).reg x = s.reg x :=
  State.reg_congr (s.logUnofficial_v w) x
@[simp] theorem State.finish_reg (a : Addr) (d : DecodedInstruction) (x : RegNum) : (s.finish a d).reg x = s.reg x :=
  State.reg_congr (s.finish_v a d) x

-- Cells depend on memory and on `STRICT_UNINIT` alone.
theorem State.cell_congr {s t : State} (hm : s.mem = t.mem) (hc : s.config = t.config) (a : Nat) : s.cell a = t.cell a := by
  simp only [State.cell, hm, hc]
@[simp] theorem State.setReg_cell (x : RegNum) (b : Byte) (a' : Nat) : (s.setReg x b).cell a' = s.cell a' := rfl
@[simp] theorem State.setRegFlag_cell (x : RegNum) (r : Byte) (f : Bool) (a' : Nat) : (s.setRegFlag x r f).cell a' = s.cell a' := rfl
@[simp] theorem State.goto_cell (a : Addr) (a' : Nat) : (s.goto a).cell a' = s.cell a' := rfl
@[simp] theorem State.advance_cell (a' : Nat) : (s.advance).cell a' = s.cell a' := rfl
@[simp] theorem State.skipIf_cell (b : Bool) (a' : Nat) : (s.skipIf b).cell a' = s.cell a' := rfl
@[simp] theorem State.jump_cell (a : Addr) (a' : Nat) : (s.jump a).cell a' = s.cell a' := rfl
@[simp] theorem State.push_cell (a : Addr) (a' : Nat) : (s.push a).cell a' = s.cell a' := rfl
@[simp] theorem State.pop_cell (a' : Nat) : (s.pop).cell a' = s.cell a' := rfl
@[simp] theorem State.emit_cell (e : LogEvent) (a' : Nat) : (s.emit e).cell a' = s.cell a' := rfl
@[simp] theorem State.logEvent_cell (sev : Severity) (k : ErrorKind) (w : Word) (a' : Nat) : (s.logEvent sev k w).cell a' = s.cell a' := rfl
@[simp] theorem State.fatal_cell (k : ErrorKind) (w : Word) (a' : Nat) : (s.fatal k w).cell a' = s.cell a' := rfl
@[simp] theorem State.sample_cell (a' : Nat) : (s.sample).cell a' = s.cell a' := rfl
@[simp] theorem State.logUnofficial_cell (w : Word) (a : Nat) : (s.logUnofficial w).cell a = s.cell a :=
  State.cell_congr (by simp) (by simp) a
@[simp] theorem State.finish_cell (p : Addr) (d : DecodedInstruction) (a : Nat) : (s.finish p d).cell a = s.cell a :=
  State.cell_congr (by simp) (by simp) a
@[simp] theorem State.setRegs_cell (k : Nat) (bs : List Byte) (a : Nat) : (s.setRegs k bs).cell a = s.cell a :=
  State.cell_congr (by simp) (by simp) a

end Sys2Proof.Machine
end

