-- ==== Sys2Proof/WellFormed.lean ====
section
/-! DEFINITION. When an instruction is one its row admits: the shape conditions of 30_encoding.md R65 and the
classification conditions of R69 under a configuration. -/

namespace Sys2Proof

/-- The shape conditions of the rows: `sys` is not `00E0` or `00EE` (row 3), `drw` has `N` not 0 (row 24). Every other
field of every row takes every value of its width. -/
def Instr.shapeOk (i : Instr) : Bool :=
  match i with
  | .sys nnn => nnn != 0x0E0 && nnn != 0x0EE
  | .drw _ _ n => n != 0
  | .cls | .ret | .jpAddr _ | .call _ | .seByte _ _ | .sneByte _ _ | .seReg _ _ | .ldByte _ _ | .addByte _ _
  | .ldReg _ _ | .orReg _ _ | .andReg _ _ | .xorReg _ _ | .addReg _ _ | .subReg _ _ | .shrReg _ _ | .subnReg _ _
  | .shlReg _ _ | .sneReg _ _ | .ldIAddr _ | .jpV0 _ | .rnd _ _ | .skp _ | .sknp _ | .ldVxDt _ | .ldVxK _
  | .ldDtVx _ | .ldStVx _ | .addIVx _ | .ldFVx _ | .ldBVx _ | .ldIndVx _ | .ldVxInd _ | .ext00C _ | .ext00FB | .ext00FC
  | .ext00FD | .ext00FE | .ext00FF | .extDXY0 _ _ | .extFX30 _ | .extFX75 _ | .extFX85 _ | .ban6F _ | .ban7F _
  | .ban8FY0 _ | .banCF _ | .banFF07 | .banFF0A | .banFF65 | .ban8FY4 _ | .ban8FY6 _ | .ban8FYE _ => true

/-- The classification condition (R69): a Valid row's word is in neither set, an extended row's is in `EXTENDED`, a banned
row's is in `BANNED` and not in `EXTENDED`. -/
def Instr.classOk (c : Config) (i : Instr) : Bool :=
  match i.rowClass with
  | .valid => !inSet c.extended (encode i) && !inSet c.banned (encode i)
  | .extendedUnsupported => inSet c.extended (encode i)
  | .banned => !inSet c.extended (encode i) && inSet c.banned (encode i)

/-- An instruction that has a word under a configuration. -/
def WellFormed (c : Config) (i : Instr) : Bool := i.shapeOk && i.classOk c

end Sys2Proof
end

