-- ==== Sys2Proof/Safety.lean ====
section
/-! DEFINITION. What a sound state is, and the frames claims are stated with. -/

namespace Sys2Proof.Machine

/-- A rewind frame of a machine with configuration `c`: its framebuffer copy is canonical and its stack fits. -/
abbrev RewindFrame.Sound (c : Config) (f : RewindFrame) : Prop :=
  Memory.wfFrom c.strictUninit fbBase f.fb = true ∧ f.stack.length = c.stackDepth ∧ f.sp ≤ c.stackDepth

/-- The codes `fault_cause` can hold: 0, and those of the kinds something raises as Fatal (60_exceptions.md R171; code 7 is
raised by nothing, 9 and 10 are never Fatal). -/
def legalCauses : List (BitVec 4) := [0, 1, 2, 3, 4, 5, 6, 8]

/-- The machine's invariant: memory canonical and inside the address space, the configuration legal (R201), the stack of
`STACK_DEPTH` entries with `sp` in range (R16), `halt` exactly when a cause is latched (R19, R173), the cause a legal code,
the rewind ring within its depth and its frames sound (R190). -/
abbrev State.Inv (s : State) : Prop :=
  s.mem.wf s.config.strictUninit = true ∧ s.config.legal = true ∧
  s.stack.length = s.config.stackDepth ∧ s.sp ≤ s.config.stackDepth ∧
  (s.halt = true ↔ s.faultCause ≠ 0) ∧ s.faultCause ∈ legalCauses ∧
  s.rewind.length ≤ s.config.rewindDepth ∧ ∀ f ∈ s.rewind, f.Sound s.config

/-- The word at the pc is `ld vX, k` under this state's configuration. -/
def State.atKeyWait (s : State) : Prop :=
  ∃ w x, s.fetch = .ok w ∧ decode s.config w = .instr (.ldVxK x)

/-- While the CPU waits for a key, no load is legal any more and the word at the pc is still the `ld vX, k` that issued the
wait (45_timers_keypad.md R164: nothing has written memory since). Stated for machines without rewind, which alone can set
`waiting_for_key` over another memory (60_exceptions.md R190). -/
def State.KeyWaitInv (s : State) : Prop :=
  s.config.rewindDepth = 0 → s.waitingForKey = true → s.loadOpen = false ∧ s.atKeyWait

/-- From `s` to `t` the registers named in `xs` and the pc may have changed and nothing else: every other register, every
cell of memory and every other field of the state is as before. -/
def RegsFrame (xs : List RegNum) (s t : State) : Prop :=
  (∀ y, y ∉ xs → t.reg y = s.reg y) ∧ (∀ a, t.cell a = s.cell a) ∧ t = { s with v := t.v, pc := t.pc }

/-- As `RegsFrame`, and the log may have grown. -/
def LoggedRegsFrame (xs : List RegNum) (s t : State) : Prop :=
  (∀ y, y ∉ xs → t.reg y = s.reg y) ∧ (∀ a, t.cell a = s.cell a) ∧
    t = { s with v := t.v, pc := t.pc, log := t.log }

/-- The five cells from `a` up hold these bytes, in ascending order: one row of the glyph table of 20_memory.md R55. -/
def State.glyphAt (s : State) (a : Nat) (b0 b1 b2 b3 b4 : Byte) : Prop :=
  s.cell a = some b0 ∧ s.cell (a + 1) = some b1 ∧ s.cell (a + 2) = some b2 ∧ s.cell (a + 3) = some b3 ∧
    s.cell (a + 4) = some b4

/-- The events of the unofficial instruction with word `w`: none, or one of the configured severity (40_decode_dispatch.md
R86). -/
def State.unofficialEvents (s : State) (w : Word) : List LogEvent :=
  match s.config.unofficialLog with
  | .none => []
  | .info => [.cpu .informational 10 s.pc w]
  | .warning => [.cpu .warning 10 s.pc w]

/-- The state a Fatal error of code `code` at the word `w` leaves: `s` but for `halt`, `fault_cause` and one event
(60_exceptions.md R173). -/
def State.halted (s : State) (code : BitVec 4) (w : Word) : State :=
  { s with halt := true, faultCause := code, log := s.log ++ [.cpu .fatal code s.pc w] }

/-- From `s` to `t` only the pc and the `len` cells from `lo` up may have changed: every other cell reads as before, and
every other field of the state is as before. -/
def StoreFrame (lo len : Nat) (s t : State) : Prop :=
  (∀ a, a < lo ∨ lo + len ≤ a → t.cell a = s.cell a) ∧ t = { s with mem := t.mem, pc := t.pc }

/-- The `n` cells from `I` up are in range and set, so that every one of them can be read. -/
def State.Readable (s : State) (n : Nat) : Prop := ∀ k < n, s.effective k ≤ 0xFFF ∧ ∃ b, s.cell (s.effective k) = some b

/-- The first of the `n` cells from `I` up, in ascending order, that cannot be read fails with `code`: 8 out of range, 6
Unset (60_exceptions.md R177). -/
def State.FirstBadRead (s : State) (n : Nat) (code : BitVec 4) : Prop :=
  ∃ j < n, s.Readable j ∧
    ((s.effective j > 0xFFF ∧ code = 8) ∨ (s.effective j ≤ 0xFFF ∧ s.cell (s.effective j) = none ∧ code = 6))

/-- The cells `drw` may write: the left and, for a shifted sprite, the right byte of each of its `n` rows
(44_display.md R151), at the addresses the meaning computes. -/
def spriteCell (p : SpritePos) (n a : Nat) : Prop :=
  ∃ r < n, a = fbAddr ((p.y0 + r) % 32) p.bx ∨ (p.sh ≠ 0 ∧ a = fbAddr ((p.y0 + r) % 32) ((p.bx + 1) % 8))

/-- One sprite row lights pixel `(px, py)`: bit `7 - c` of the row is 1 and the pixel is `((vx + c) mod 64, (vy + r) mod 32)`
(44_display.md R152). -/
def rowHits (row : Byte) (vx vy r px py : Nat) : Prop :=
  ∃ c < 8, row.getLsbD (7 - c) = true ∧ px = (vx + c) % 64 ∧ py = (vy + r) % 32

/-- The CPU is about to run the word `w`: no host step comes first, nothing keeps it from its tick, and the two cells at
the pc hold the bytes of `w`, the high byte at the lower address (20_memory.md R45). -/
def State.Runs (s : State) (w : Word) : Prop :=
  s.pending = [] ∧ s.pause = false ∧ s.halt = false ∧ s.pc.toNat + 1 ≤ 0xFFF ∧
    ∃ hi lo : Byte, s.cell s.pc.toNat = some hi ∧ s.cell (s.pc.toNat + 1) = some lo ∧ w = hi ++ lo

end Sys2Proof.Machine

namespace Sys2Proof

/-- The instructions that may write `vF` under a configuration: those of 10_state.md R11's table, and those that name `vF`
as an ordinary destination. -/
def Instr.mayWriteFlag (c : Config) (i : Instr) : Bool :=
  match i with
  | .addReg _ _ | .subReg _ _ | .subnReg _ _ | .shrReg _ _ | .shlReg _ _ | .drw _ _ _ => true
  | .addIVx _ => c.addIVf
  | .ldByte x _ | .addByte x _ | .ldReg x _ | .orReg x _ | .andReg x _ | .xorReg x _ | .rnd x _ | .ldVxDt x | .ldVxK x
  | .ldVxInd x => x == Machine.vF
  | .cls | .ret | .sys _ | .jpAddr _ | .call _ | .seByte _ _ | .sneByte _ _ | .seReg _ _ | .sneReg _ _ | .ldIAddr _
  | .jpV0 _ | .skp _ | .sknp _ | .ldDtVx _ | .ldStVx _ | .ldFVx _ | .ldBVx _ | .ldIndVx _ | .ext00C _ | .ext00FB
  | .ext00FC | .ext00FD | .ext00FE | .ext00FF | .extDXY0 _ _ | .extFX30 _ | .extFX75 _ | .extFX85 _ | .ban6F _
  | .ban7F _ | .ban8FY0 _ | .banCF _ | .banFF07 | .banFF0A | .banFF65 | .ban8FY4 _ | .ban8FY6 _ | .ban8FYE _ => false

/-- The instructions that take the pc elsewhere than the next word or the one after: the two jumps, `call` and `ret`. -/
def Instr.transfers (i : Instr) : Bool :=
  match i with
  | .jpAddr _ | .jpV0 _ | .call _ | .ret => true
  | _ => false

/-- The six skips. -/
def Instr.skips (i : Instr) : Bool :=
  match i with
  | .seByte _ _ | .sneByte _ _ | .seReg _ _ | .sneReg _ _ | .skp _ | .sknp _ => true
  | _ => false

end Sys2Proof
end

