-- ==== Sys2Proof/Certificates/Slice0/Obligations.lean ====
section
/-! DEFINITION. The statements of this model, for the provers: encoding, what each instruction does and leaves
unchanged, where it traps, and the rules of the whole machine. A docstring that names a log entry rests on the model's
choice there; one that names a decision D<n> of 92_eei_decisions.md, or says that the spec supplies a meaning from
general knowledge, rests on what the spec marks as its own (log 23). -/

open Sys2Proof Sys2Proof.Machine

-- Encoding (30_encoding.md).

/-- Decoding the word of any well-formed instruction gives it back, under every configuration. Derived from the opcode
map R65, which the spec supplies from general knowledge (D14), and the sets (D12, D13). -/
def Obligations.DecodeOfEncodeIsTheInstruction : Prop :=
  ∀ (c : Config) (i : Instr), WellFormed c i = true → decode c (encode i) = .instr i

/-- R73: re-encoding the mnemonic and operands a word decodes to reproduces the literal word, which is of the row's
own template; two Valid rows with one mnemonic and operand list are one row, so the pair alone gives the word back. -/
def Obligations.EncodeOfDecodeIsTheWord : Prop :=
  ∀ (c : Config) (w : Word) (i : Instr), decode c w = .instr i →
    encode i = w ∧ i.template.covers w = true ∧ WellFormed c i = true ∧
    (i.rowClass = .valid → ∀ j : Instr, j.assembly = i.assembly → encode j = w)

/-- Words written out from the spec's encodings decode to the instructions they stand for (95_test_vectors.md 2.1; the
map is the spec's own, D14). -/
def Obligations.ListedWordsDecodeAsTheSpecSays : Prop :=
  decodeTableWord 16 0x00E0 = some .cls ∧ decodeTableWord 16 0x00EE = some .ret ∧
  decodeTableWord 16 0x0123 = some (.sys 0x123) ∧ decodeTableWord 16 0x1200 = some (.jpAddr 0x200) ∧
  decodeTableWord 16 0x6A2C = some (.ldByte 0xA 0x2C) ∧ decodeTableWord 16 0x8E16 = some (.shrReg 0xE 0x1) ∧
  decodeTableWord 16 0x8F17 = some (.subnReg 0xF 0x1) ∧ decodeTableWord 16 0xB300 = some (.jpV0 0x300) ∧
  decodeTableWord 16 0xD12F = some (.drw 0x1 0x2 0xF) ∧ decodeTableWord 16 0xE0A1 = some (.sknp 0x0) ∧
  decodeTableWord 16 0xF30A = some (.ldVxK 0x3) ∧ decodeTableWord 16 0xFF55 = some (.ldIndVx 0xF) ∧
  decodeTableWord 16 0x00CF = some (.ext00C 0xF) ∧ decodeTableWord 16 0xD120 = some (.extDXY0 0x1 0x2) ∧
  decodeTableWord 16 0x6F00 = some (.ban6F 0x00) ∧ decodeTableWord 16 0x8F1E = some (.ban8FYE 0x1) ∧
  decodeTableWord 16 0x5121 = none ∧ decodeTableWord 16 0x812F = none ∧ decodeTableWord 16 0xFFFF = none

/-- R68: with the default sets the Unclassified words are exactly those of the listed templates, a list the spec marks
as derived. -/
def Obligations.UnclassifiedWordsAreExactlyTheListed : Prop :=
  ∀ w : Word, decode Config.default w = .unclassified w ↔
    ((opNibble w = 5 ∨ opNibble w = 9) ∧ fieldN w ≠ 0) ∨
    (opNibble w = 8 ∧ fieldN w ∈ ([0x8, 0x9, 0xA, 0xB, 0xC, 0xD, 0xF] : List Nibble)) ∨
    (opNibble w = 0xE ∧ fieldKk w ∉ ([0x9E, 0xA1] : List Byte)) ∨
    (opNibble w = 0xF ∧
      fieldKk w ∉ ([0x07, 0x0A, 0x15, 0x18, 0x1E, 0x29, 0x30, 0x33, 0x55, 0x65, 0x75, 0x85] : List Byte))

/-- R69: `EXTENDED` before `BANNED` before the rows of the opcode map, else Unclassified, under every configuration.
The order is the spec's own (D11). -/
def Obligations.ClassificationPrecedence : Prop :=
  ∀ (c : Config) (w : Word),
    (inSet c.extended w = true →
      (∃ i, decode c w = .instr i ∧ i.rowClass = .extendedUnsupported) ∨ decode c w = .invalid .extendedUnsupported w) ∧
    (inSet c.extended w = false → inSet c.banned w = true →
      (∃ i, decode c w = .instr i ∧ i.rowClass = .banned) ∨ decode c w = .invalid .banned w) ∧
    (inSet c.extended w = false → inSet c.banned w = false →
      (∃ i, decode c w = .instr i ∧ i.rowClass = .valid) ∨
      (decode c w = .unclassified w ∧ ∀ i, i.rowClass = .valid → i.shapeOk = true → encode i ≠ w))

-- Register loads, arithmetic, logic, shifts, random (41_arithmetic.md).

/-- R100, R101: the immediate, or the other register's byte; meanings the spec supplies from general knowledge. -/
def Obligations.LoadsCopyTheirSource : Prop :=
  ∀ (s : State) (x y : RegNum) (kk : Byte),
    (∃ t, exec (.ldByte x kk) s = .next t ∧ t.reg x = kk ∧ t.pc = s.pc + 2 ∧ RegsFrame [x] s t) ∧
    (∃ t, exec (.ldReg x y) s = .next t ∧ t.reg x = s.reg y ∧ t.pc = s.pc + 2 ∧ RegsFrame [x] s t)

/-- R102: the sum modulo 256, and `vF` keeps its value unless it is the destination (that `vF` is not a flag here is
the spec's own, D21). -/
def Obligations.AddByteWrapsAndLeavesTheFlag : Prop :=
  ∀ (s : State) (x : RegNum) (kk : Byte), ∃ t, exec (.addByte x kk) s = .next t ∧
    (t.reg x).toNat = ((s.reg x).toNat + kk.toNat) % 256 ∧ (x ≠ vF → t.reg vF = s.reg vF) ∧
    t.pc = s.pc + 2 ∧ RegsFrame [x] s t

/-- R103, R104, R105: the three logic operations, bit by bit; `vF` is written only as a destination (D21). The spec
supplies the three from general knowledge. -/
def Obligations.LogicWorksBitByBit : Prop :=
  ∀ (s : State) (x y : RegNum),
    (∃ t, exec (.orReg x y) s = .next t ∧
      (∀ k, (t.reg x).getLsbD k = ((s.reg x).getLsbD k || (s.reg y).getLsbD k)) ∧ t.pc = s.pc + 2 ∧ RegsFrame [x] s t) ∧
    (∃ t, exec (.andReg x y) s = .next t ∧
      (∀ k, (t.reg x).getLsbD k = ((s.reg x).getLsbD k && (s.reg y).getLsbD k)) ∧ t.pc = s.pc + 2 ∧ RegsFrame [x] s t) ∧
    (∃ t, exec (.xorReg x y) s = .next t ∧
      (∀ k, (t.reg x).getLsbD k = ((s.reg x).getLsbD k ^^ (s.reg y).getLsbD k)) ∧ t.pc = s.pc + 2 ∧
      t.log = s.log ++ s.unofficialEvents (encode (.xorReg x y)) ∧ LoggedRegsFrame [x] s t)

/-- R106, R112: the sum modulo 256 and the carry. That the flag is written last, so that it is what `vF` holds for `X` =
15, is the spec's own (D20, log 23). -/
def Obligations.AddRegSetsTheCarry : Prop :=
  ∀ (s : State) (x y : RegNum), ∃ t, exec (.addReg x y) s = .next t ∧
    (x ≠ vF → (t.reg x).toNat = ((s.reg x).toNat + (s.reg y).toNat) % 256) ∧
    t.reg vF = (if (s.reg x).toNat + (s.reg y).toNat > 255 then 1 else 0) ∧
    t.pc = s.pc + 2 ∧ RegsFrame [x, vF] s t

/-- R107, R109, R112: both differences modulo 256 and the not-borrow flags. That the flag is written last, so that it is
what `vF` holds for `X` = 15, is the spec's own (D20, log 23). -/
def Obligations.SubAndSubnSetNotBorrow : Prop :=
  ∀ (s : State) (x y : RegNum),
    (∃ t, exec (.subReg x y) s = .next t ∧
      (x ≠ vF → ((t.reg x).toNat : Int) = ((s.reg x).toNat - (s.reg y).toNat : Int) % 256) ∧
      t.reg vF = (if (s.reg x).toNat ≥ (s.reg y).toNat then 1 else 0) ∧
      t.pc = s.pc + 2 ∧ RegsFrame [x, vF] s t) ∧
    (∃ t, exec (.subnReg x y) s = .next t ∧
      (x ≠ vF → ((t.reg x).toNat : Int) = ((s.reg y).toNat - (s.reg x).toNat : Int) % 256) ∧
      t.reg vF = (if (s.reg y).toNat ≥ (s.reg x).toNat then 1 else 0) ∧
      t.pc = s.pc + 2 ∧ t.log = s.log ++ s.unofficialEvents (encode (.subnReg x y)) ∧ LoggedRegsFrame [x, vF] s t)

/-- R108, R110, R112: in legacy mode the source is `x[Y]`, in modern mode `x[X]`; the bit shifted out is the flag (the
flag is the spec's own, D22, and so is that it is written last, D20). -/
def Obligations.ShiftsReadTheConfiguredSource : Prop :=
  ∀ (s : State) (x y : RegNum) (src : Byte),
    (s.config.shiftMode = .legacy → src = s.reg y) → (s.config.shiftMode = .modern → src = s.reg x) →
    (∃ t, exec (.shrReg x y) s = .next t ∧
      (x ≠ vF → (t.reg x).toNat = src.toNat / 2) ∧ (t.reg vF).toNat = src.toNat % 2 ∧
      t.pc = s.pc + 2 ∧ t.log = s.log ++ s.unofficialEvents (encode (.shrReg x y)) ∧ LoggedRegsFrame [x, vF] s t) ∧
    (∃ t, exec (.shlReg x y) s = .next t ∧
      (x ≠ vF → (t.reg x).toNat = src.toNat * 2 % 256) ∧ (t.reg vF).toNat = src.toNat / 128 ∧
      t.pc = s.pc + 2 ∧ t.log = s.log ++ s.unofficialEvents (encode (.shlReg x y)) ∧ LoggedRegsFrame [x, vF] s t)

/-- R111: the result is a drawn byte AND `kk`, so a submask of `kk`; the byte is the free value `Config.randIn` at the
counter `draws`, which the instruction advances (log 4), and the statement holds whatever that value is. -/
def Obligations.RndIsADrawnByteMasked : Prop :=
  ∀ (s : State) (x : RegNum) (kk : Byte), ∃ t r, exec (.rnd x kk) s = .next t ∧
    r = Config.randIn s.draws ∧ t.draws = s.draws + 1 ∧ t.reg x = r &&& kk ∧ t.reg x &&& ~~~kk = 0 ∧
    t.pc = s.pc + 2 ∧ RegsFrame [x] { s with draws := s.draws + 1 } t

/-- R86: an unofficial instruction emits one event of the configured severity, or none, and runs. -/
def Obligations.UnofficialInstructionsAreLogged : Prop :=
  ∀ (s : State) (i : Instr), i.unofficial = true → ∃ t, exec i s = .next t ∧
    t.log = s.log ++ s.unofficialEvents (encode i) ∧ t.halt = s.halt ∧ t.pc = s.pc + 2 ∧
    t = { s with v := t.v, pc := t.pc, log := t.log }

-- Control flow (42_control_flow.md).

/-- R120: ignored, one Warning; that `sys` only advances the pc is the spec's own (D16). -/
def Obligations.SysIsIgnoredWithAWarning : Prop :=
  ∀ (s : State) (nnn : Addr), ∃ t, exec (.sys nnn) s = .next t ∧
    t.log = s.log ++ [.cpu .warning 9 s.pc (nnn.setWidth 16)] ∧ t.pc = s.pc + 2 ∧ LoggedRegsFrame [] s t

/-- R121, R122, R129: the targets `nnn` and `nnn + v0` modulo 4096, and `spinning` set exactly when the target is the
jump's own address (the target of `jp v0` from general knowledge, its wrap and the lasting flag the spec's own: D7,
D32). -/
def Obligations.JumpsReachTheirTargetAndDetectSpinning : Prop :=
  ∀ (s : State) (nnn : Addr),
    (∃ t, exec (.jpAddr nnn) s = .next t ∧
      t.pc = nnn ∧ (t.spinning = true ↔ s.spinning = true ∨ nnn = s.pc) ∧
      RegsFrame [] { s with spinning := t.spinning } t) ∧
    (∃ t, exec (.jpV0 nnn) s = .next t ∧
      t.pc.toNat = (nnn.toNat + (s.reg 0).toNat) % 4096 ∧ (t.spinning = true ↔ s.spinning = true ∨ t.pc = s.pc) ∧
      RegsFrame [] { s with spinning := t.spinning } t)

/-- R123, R176: below the depth the return address is pushed and control goes to `nnn`; at the depth StackOverflow is
raised and nothing else is written (general knowledge and D19). -/
def Obligations.CallPushesOrOverflows : Prop :=
  ∀ (s : State) (nnn : Addr),
    (s.sp < s.config.stackDepth → ∃ t, exec (.call nnn) s = .next t ∧
      t.pc = nnn ∧ t.sp = s.sp + 1 ∧ (s.stack.length = s.config.stackDepth → t.stackCell s.sp = s.pc + 2) ∧
      (∀ k, k ≠ s.sp → t.stackCell k = s.stackCell k) ∧ RegsFrame [] { s with stack := t.stack, sp := t.sp } t) ∧
    (s.sp = s.config.stackDepth → s.config.stackFaultFatal = true →
      exec (.call nnn) s = .next (s.halted 4 (encode (.call nnn))))

/-- R124, R176: a valid entry is popped and control goes to it, its cell keeping its bits; with none StackUnderflow is
raised and nothing else is written (general knowledge, D19, D39). -/
def Obligations.RetPopsOrUnderflows : Prop :=
  ∀ (s : State),
    (0 < s.sp → ∃ t, exec .ret s = .next t ∧
      t.sp + 1 = s.sp ∧ t.pc = s.stackCell t.sp ∧ t.stack = s.stack ∧ RegsFrame [] { s with sp := t.sp } t) ∧
    (s.sp = 0 → s.config.stackFaultFatal = true → exec .ret s = .next (s.halted 5 0x00EE))

/-- A `call` and the `ret` that follows it in a state with the same stack come back to the word after the `call`, with
the same valid entries. Derived from R16, R123, R124. -/
def Obligations.RetReturnsToAfterTheCall : Prop :=
  ∀ (s t u : State) (nnn : Addr), s.sp < s.config.stackDepth → s.stack.length = s.config.stackDepth →
    exec (.call nnn) s = .next t → u.stack = t.stack → u.sp = t.sp →
    ∃ r, exec .ret u = .next r ∧ r.pc = s.pc + 2 ∧ r.sp = s.sp ∧ r.validStack = s.validStack

/-- R125 to R128: the four compare skips, which the spec supplies from general knowledge. -/
def Obligations.CompareSkipsSkipExactlyWhenTrue : Prop :=
  ∀ (s : State) (x y : RegNum) (kk : Byte),
    (∃ t, exec (.seByte x kk) s = .next t ∧
      t.pc.toNat = (s.pc.toNat + if s.reg x = kk then 4 else 2) % 4096 ∧ RegsFrame [] s t) ∧
    (∃ t, exec (.sneByte x kk) s = .next t ∧
      t.pc.toNat = (s.pc.toNat + if s.reg x ≠ kk then 4 else 2) % 4096 ∧ RegsFrame [] s t) ∧
    (∃ t, exec (.seReg x y) s = .next t ∧
      t.pc.toNat = (s.pc.toNat + if s.reg x = s.reg y then 4 else 2) % 4096 ∧ RegsFrame [] s t) ∧
    (∃ t, exec (.sneReg x y) s = .next t ∧
      t.pc.toNat = (s.pc.toNat + if s.reg x ≠ s.reg y then 4 else 2) % 4096 ∧ RegsFrame [] s t)

-- Index register and memory (43_memory_index.md).

/-- R140, R141, R142: `I` takes the address, or the sum modulo 4096 with `vF` bit 12 of the sum under `ADD_I_VF` and
untouched otherwise, or the address of the glyph the low nibble selects, which is inside the font. The spec supplies
R140 and R142 from general knowledge; the cleared flag is D23, the low nibble D24. -/
def Obligations.IndexWritesSetTheIndex : Prop :=
  ∀ (s : State) (nnn : Addr) (x : RegNum),
    (∃ t, exec (.ldIAddr nnn) s = .next t ∧ t.i = nnn ∧ t.pc = s.pc + 2 ∧ RegsFrame [] { s with i := t.i } t) ∧
    (∃ t, exec (.addIVx x) s = .next t ∧
      t.i.toNat = (s.i.toNat + (s.reg x).toNat) % 4096 ∧
      (s.config.addIVf = true → t.reg vF = if s.i.toNat + (s.reg x).toNat > 0xFFF then 1 else 0) ∧
      (s.config.addIVf = false → t.reg vF = s.reg vF) ∧
      t.pc = s.pc + 2 ∧ RegsFrame [vF] { s with i := t.i } t) ∧
    (∃ t, exec (.ldFVx x) s = .next t ∧
      t.i.toNat = 0x050 + 5 * ((s.reg x).toNat % 16) ∧ 0x050 ≤ t.i.toNat ∧ t.i.toNat ≤ 0x09B ∧
      t.pc = s.pc + 2 ∧ RegsFrame [] { s with i := t.i } t)

/-- R143: the three digits at `I`, `I + 1`, `I + 2`, hundreds first, their value the register's; `I` is unchanged
(D25, D26). -/
def Obligations.BcdStoresThreeDigits : Prop :=
  ∀ (s : State) (x : RegNum), s.mem.wf s.config.strictUninit = true → s.i.toNat + 2 ≤ 0xFFF →
    ∃ t, exec (.ldBVx x) s = .next t ∧
      (∃ h d o : Byte, t.cell s.i.toNat = some h ∧ t.cell (s.i.toNat + 1) = some d ∧ t.cell (s.i.toNat + 2) = some o ∧
        d.toNat ≤ 9 ∧ o.toNat ≤ 9 ∧ 100 * h.toNat + 10 * d.toNat + o.toNat = (s.reg x).toNat) ∧
      t.pc = s.pc + 2 ∧ StoreFrame s.i.toNat 3 s t

/-- R144: `v0` to `vX` at `I` and up, `v0` lowest; `I` is unchanged (general knowledge and D26). -/
def Obligations.BlockStoreStoresTheRegisters : Prop :=
  ∀ (s : State) (x : RegNum), s.mem.wf s.config.strictUninit = true → s.i.toNat + x.toNat ≤ 0xFFF →
    ∃ t, exec (.ldIndVx x) s = .next t ∧
      (∀ k : RegNum, k ≤ x → t.cell (s.i.toNat + k.toNat) = some (s.reg k)) ∧
      t.pc = s.pc + 2 ∧ StoreFrame s.i.toNat (x.toNat + 1) s t

/-- R145: `v0` to `vX` from `I` and up when every cell is in range and set; `I` is unchanged (general knowledge and
D26). -/
def Obligations.BlockLoadLoadsTheRegisters : Prop :=
  ∀ (s : State) (x : RegNum), s.Readable (x.toNat + 1) →
    ∃ t, exec (.ldVxInd x) s = .next t ∧
      (∀ k : RegNum, k ≤ x → s.cell (s.i.toNat + k.toNat) = some (t.reg k)) ∧
      (∀ k : RegNum, x < k → t.reg k = s.reg k) ∧ t.pc = s.pc + 2 ∧ (∀ a, t.cell a = s.cell a) ∧
      t = { s with v := t.v, pc := t.pc }

/-- R85, R143 to R145, R151: where a memory instruction traps. The first failing check is reported and nothing is
stored, loaded or drawn. The range check is D9, precision and order D17. -/
def Obligations.MemoryInstructionsTrapPrecisely : Prop :=
  ∀ (s : State) (x y : RegNum) (n : Nibble) (code : BitVec 4),
    (s.i.toNat + 2 > 0xFFF → exec (.ldBVx x) s = .next (s.halted 8 (encode (.ldBVx x)))) ∧
    (s.i.toNat + x.toNat > 0xFFF → exec (.ldIndVx x) s = .next (s.halted 8 (encode (.ldIndVx x)))) ∧
    (s.FirstBadRead (x.toNat + 1) code → exec (.ldVxInd x) s = .next (s.halted code (encode (.ldVxInd x)))) ∧
    (s.FirstBadRead n.toNat code → exec (.drw x y n) s = .next (s.halted code (encode (.drw x y n))))

/-- A block store and a block load at the same `I` over the memory it left give the registers back. Derived from R144,
R145, R49. -/
def Obligations.BlockLoadUndoesBlockStore : Prop :=
  ∀ (s t u : State) (x : RegNum), s.mem.wf s.config.strictUninit = true → s.i.toNat + x.toNat ≤ 0xFFF →
    exec (.ldIndVx x) s = .next t → u.mem = t.mem → u.config = t.config → u.i = t.i →
    ∃ r, exec (.ldVxInd x) u = .next r ∧ ∀ k : RegNum, k ≤ x → r.reg k = s.reg k

/-- R42, R43: what a read answers and raises, and that a write is seen at its own address and nowhere else (the range
check is D9). -/
def Obligations.MemoryReadsWhatWasWritten : Prop :=
  ∀ (strict : Bool) (m : Memory) (a : Nat) (v : Byte),
    (a > 0xFFF → m.read strict a = .error .addressOutOfRange ∧ m.write strict a v = .error .addressOutOfRange) ∧
    (a ≤ 0xFFF → m.cell strict a = none → m.read strict a = .error .uninitializedMemoryAccess) ∧
    (a ≤ 0xFFF → ∀ b, m.cell strict a = some b → m.read strict a = .ok b) ∧
    (a ≤ 0xFFF → m.wf strict = true → ∃ m', m.write strict a v = .ok m' ∧ m'.wf strict = true ∧
      m'.read strict a = .ok v ∧ ∀ b, b ≠ a → m'.read strict b = m.read strict b)

-- Framebuffer (44_display.md).

/-- R150: every framebuffer cell is byte 0, every other cell is as before, `draw_flag` is set, `vF` is not written
(D28). -/
def Obligations.ClsClearsTheFramebuffer : Prop :=
  ∀ (s : State), s.mem.wf s.config.strictUninit = true → ∃ t, exec .cls s = .next t ∧
    (∀ a, 0xF00 ≤ a → a ≤ 0xFFF → t.cell a = some 0) ∧ (∀ a, a < 0xF00 ∨ 0xFFF < a → t.cell a = s.cell a) ∧
    (∀ px py, px < 64 → py < 32 → t.pixel px py = false) ∧ t.drawFlag = true ∧ t.pc = s.pc + 2 ∧
    t = { s with mem := t.mem, drawFlag := t.drawFlag, pc := t.pc }

/-- R151: `drw` completes whenever its sprite cells can be read, and what it leaves unchanged: every register but
`vF`, every cell but the sprite's framebuffer bytes, `I` and the rest (D26, D27). -/
def Obligations.DrwCompletesWithinItsFrame : Prop :=
  ∀ (s : State) (x y : RegNum) (n : Nibble), s.mem.wf s.config.strictUninit = true → s.Readable n.toNat →
    ∃ t, exec (.drw x y n) s = .next t ∧
      (t.reg vF = 0 ∨ t.reg vF = 1) ∧ (∀ k, k ≠ vF → t.reg k = s.reg k) ∧
      (∀ a, ¬ spriteCell (spritePos (s.reg x) (s.reg y)) n.toNat a → t.cell a = s.cell a) ∧
      t.drawFlag = true ∧ t.pc = s.pc + 2 ∧
      t = { s with v := t.v, mem := t.mem, drawFlag := t.drawFlag, pc := t.pc }

/-- R151, R152: `drw` draws row after row, each row read from memory as the rows before it left it (so a sprite that
lies in the framebuffer, or straddles its start, is covered), and each changes exactly the pixels its 1 bits land on,
wrapping on both axes, and no cell below the framebuffer; `vF` is 1 exactly when some row turned a lit pixel off. The
bit order, the wrapping and the order of the reads are D27. -/
def Obligations.DrwDrawsRowAfterRow : Prop :=
  ∀ (s : State) (x y : RegNum) (n : Nibble), s.mem.wf s.config.strictUninit = true → s.Readable n.toNat →
    ∃ t, exec (.drw x y n) s = .next t ∧
    ∃ ms : Nat → Memory, ms 0 = s.mem ∧ ms n.toNat = t.mem ∧
      (∀ r ≤ n.toNat, ∀ a < 0xF00, (ms r).cell s.config.strictUninit a = s.cell a) ∧
      (∀ r < n.toNat, ∃ row : Byte, (ms r).cell s.config.strictUninit (s.effective r) = some row ∧
        ∀ px py, px < 64 → py < 32 →
          ((ms (r + 1)).pixel s.config.strictUninit px py ≠ (ms r).pixel s.config.strictUninit px py ↔
            rowHits row (s.reg x).toNat (s.reg y).toNat r px py)) ∧
      (t.reg vF = 0 ∨ t.reg vF = 1) ∧
      (t.reg vF = 1 ↔ ∃ r < n.toNat, ∃ px < 64, ∃ py < 32,
        (ms r).pixel s.config.strictUninit px py = true ∧ (ms (r + 1)).pixel s.config.strictUninit px py = false)

/-- R152: for a sprite outside the framebuffer, the pixels one `drw` changes are exactly the positions its 1 bits land
on, and `vF` is 1 exactly when some pixel lit before is unlit after (a property the spec derives; the bit order is
D27). -/
def Obligations.DrwChangesExactlyTheSpritePixels : Prop :=
  ∀ (s : State) (x y : RegNum) (n : Nibble), s.mem.wf s.config.strictUninit = true → s.Readable n.toNat →
    s.i.toNat + n.toNat ≤ 0xF00 →
    ∃ t, exec (.drw x y n) s = .next t ∧
      (∀ px py, px < 64 → py < 32 → (t.pixel px py ≠ s.pixel px py ↔
        ∃ r < n.toNat, ∃ row : Byte, s.cell (s.effective r) = some row ∧
          rowHits row (s.reg x).toNat (s.reg y).toNat r px py)) ∧
      (t.reg vF = 0 ∨ t.reg vF = 1) ∧
      (t.reg vF = 1 ↔ ∃ px < 64, ∃ py < 32, s.pixel px py = true ∧ t.pixel px py = false)

/-- R151 (the idempotence property): the same sprite drawn twice at the same place, from outside the framebuffer,
restores every cell, and the second `vF` is 1 exactly when the first draw lit some pixel (log 22). -/
def Obligations.DrwTwiceRestoresTheFramebuffer : Prop :=
  ∀ (s t : State) (x y : RegNum) (n : Nibble), x ≠ vF → y ≠ vF → s.mem.wf s.config.strictUninit = true →
    s.Readable n.toNat → s.i.toNat + n.toNat ≤ 0xF00 → exec (.drw x y n) s = .next t →
    ∃ u, exec (.drw x y n) t = .next u ∧ (∀ a, u.cell a = s.cell a) ∧
      (u.reg vF = 1 ↔ ∃ px < 64, ∃ py < 32, s.pixel px py = false ∧ t.pixel px py = true)

-- Timers and keypad (45_timers_keypad.md, 60_exceptions.md).

/-- R160, R161, R162: the three timer moves, which the spec supplies from general knowledge; `sound_on` is D33. -/
def Obligations.TimerMovesCopyTheByte : Prop :=
  ∀ (s : State) (x : RegNum),
    (∃ t, exec (.ldVxDt x) s = .next t ∧ t.reg x = s.dt ∧ t.pc = s.pc + 2 ∧ RegsFrame [x] s t) ∧
    (∃ t, exec (.ldDtVx x) s = .next t ∧ t.dt = s.reg x ∧ t.pc = s.pc + 2 ∧ RegsFrame [] { s with dt := t.dt } t) ∧
    (∃ t, exec (.ldStVx x) s = .next t ∧ t.st = s.reg x ∧ (t.soundOn = true ↔ s.reg x ≠ 0) ∧ t.pc = s.pc + 2 ∧
      RegsFrame [] { s with st := t.st } t)

/-- R163, R164: the issuing tick enters the wait, keeps the pc and writes no register, whatever the keys. On a later
tick nothing changes without a key-down edge; with one, the lowest rising key is stored and the wait ends (D31). -/
def Obligations.KeyWaitStoresTheLowestRisingKey : Prop :=
  ∀ (s : State) (x : RegNum),
    (s.waitingForKey = false → ∃ t, exec (.ldVxK x) s = .next t ∧
      t.waitingForKey = true ∧ t.pc = s.pc ∧ RegsFrame [] { s with waitingForKey := t.waitingForKey } t) ∧
    (s.waitingForKey = true → s.keypad &&& ~~~s.prevKeypad = 0 → exec (.ldVxK x) s = .next s) ∧
    (s.waitingForKey = true → ∀ k < 16, s.keypad.getLsbD k = true → s.prevKeypad.getLsbD k = false →
      (∀ j < k, s.keypad.getLsbD j = true → s.prevKeypad.getLsbD j = true) →
      ∃ t, exec (.ldVxK x) s = .next t ∧ (t.reg x).toNat = k ∧ t.waitingForKey = false ∧ t.pc = s.pc + 2 ∧
        RegsFrame [x] { s with waitingForKey := t.waitingForKey } t)

/-- R165, R166: the keypad skips test the level of key `x[X] mod 16` in this tick's snapshot (general knowledge; the
low nibble is D31). -/
def Obligations.KeypadSkipsTestTheLevel : Prop :=
  ∀ (s : State) (x : RegNum),
    (∃ t, exec (.skp x) s = .next t ∧ RegsFrame [] s t ∧
      t.pc.toNat = (s.pc.toNat + if s.keypad.getLsbD ((s.reg x).toNat % 16) = true then 4 else 2) % 4096) ∧
    (∃ t, exec (.sknp x) s = .next t ∧ RegsFrame [] s t ∧
      t.pc.toNat = (s.pc.toNat + if s.keypad.getLsbD ((s.reg x).toNat % 16) = false then 4 else 2) % 4096)

/-- R180, R181: a timer strobe counts its own timer down, clamped at zero, in every state of the CPU, and touches
nothing else. -/
def Obligations.TimerTicksCountDownClamped : Prop :=
  ∀ (s : State) (q : List HostStep),
    (s.pending = .strobes false false true :: q → ∃ t, step s = .next t ∧
      t.dt.toNat = s.dt.toNat - 1 ∧ t = { s with dt := t.dt, pending := q }) ∧
    (s.pending = .strobes false true false :: q → ∃ t, step s = .next t ∧
      t.st.toNat = s.st.toNat - 1 ∧ t = { s with st := t.st, pending := q })

/-- R183: after `k` ticks a timer that held `v` holds `max(v - k, 0)`. -/
def Obligations.TimersReachZeroAndStay : Prop :=
  ∀ (s : State) (k : Nat), (State.dtTick^[k] s).dt.toNat = s.dt.toNat - k ∧ (State.stTick^[k] s).st.toNat = s.st.toNat - k

/-- R184, R189: strobes issued together are applied `cpu_tick`, then `st_tick`, then `dt_tick` (D3). Without a CPU
strobe, and on a paused machine, no `cpu_tick` is among them and the timers tick all the same (D37, log 16). -/
def Obligations.StrobesApplyTheCpuFirst : Prop :=
  ∀ (s : State) (st dt : Bool) (q : List HostStep),
    (∀ u, s.pending = .strobes true st dt :: q → s.pause = false → cpuTick { s with pending := q } = .next u →
      ∃ t, step s = .next t ∧ t.st.toNat = u.st.toNat - st.toNat ∧ t.dt.toNat = u.dt.toNat - dt.toNat ∧
        t = { u with st := t.st, dt := t.dt }) ∧
    (∀ cpu, s.pending = .strobes cpu st dt :: q → cpu = false ∨ s.pause = true →
      ∃ t, step s = .next t ∧ t.st.toNat = s.st.toNat - st.toNat ∧ t.dt.toNat = s.dt.toNat - dt.toNat ∧
        t = { s with st := t.st, dt := t.dt, pending := q })

-- The classification sets (40_decode_dispatch.md).

/-- R89: every row of the two sets raises its Fatal error, and so does a tick on any word the configuration puts into
a set: no handler runs, the pc stays at the word. That nothing else changes is R173's precision, the spec's own (D17),
and so is that `EXTENDED` comes before `BANNED` (D11; log 23). -/
def Obligations.SetRowsRaiseTheirError : Prop :=
  (∀ (i : Instr) (s : State),
    (i.rowClass = .extendedUnsupported → exec i s = .next (s.halted 3 (encode i))) ∧
    (i.rowClass = .banned → exec i s = .next (s.halted 2 (encode i)))) ∧
  (∀ (s : State) (w : Word), s.Runs w → s.waitingForKey = false →
    (inSet s.config.extended w = true →
      step s = .next ({ s with keypad := s.keypadIn, loadOpen := false }.halted 3 w)) ∧
    (inSet s.config.extended w = false → inSet s.config.banned w = true →
      step s = .next ({ s with keypad := s.keypadIn, loadOpen := false }.halted 2 w)))

-- Reset, load, and the other host steps (10_state.md, 70_reset_and_hazards.md).

/-- R24, R55: what reset leaves, for every configuration: the values the spec states (the cells of the stack are not
among them). All but the pc, the font's place and the empty ring is the spec's own (D4, D5, D6). -/
def Obligations.ResetLeavesTheStatedValues : Prop :=
  ∀ (c : Config) (s : State), s = State.resetWith c →
    (∀ x, s.reg x = 0) ∧ s.i = 0 ∧ s.pc = 0x200 ∧ s.dt = 0 ∧ s.st = 0 ∧ s.sp = 0 ∧ s.keypad = 0 ∧ s.prevKeypad = 0 ∧
    s.waitingForKey = false ∧ s.spinning = false ∧ s.drawFlag = false ∧ s.halt = false ∧ s.faultCause = 0 ∧
    s.config = c ∧ s.rewind = [] ∧
    (s.glyphAt 0x050 0xF0 0x90 0x90 0x90 0xF0 ∧ s.glyphAt 0x055 0x20 0x60 0x20 0x20 0x70 ∧
      s.glyphAt 0x05A 0xF0 0x10 0xF0 0x80 0xF0 ∧ s.glyphAt 0x05F 0xF0 0x10 0xF0 0x10 0xF0 ∧
      s.glyphAt 0x064 0x90 0x90 0xF0 0x10 0x10 ∧ s.glyphAt 0x069 0xF0 0x80 0xF0 0x10 0xF0 ∧
      s.glyphAt 0x06E 0xF0 0x80 0xF0 0x90 0xF0 ∧ s.glyphAt 0x073 0xF0 0x10 0x20 0x40 0x40 ∧
      s.glyphAt 0x078 0xF0 0x90 0xF0 0x90 0xF0 ∧ s.glyphAt 0x07D 0xF0 0x90 0xF0 0x10 0xF0 ∧
      s.glyphAt 0x082 0xF0 0x90 0xF0 0x90 0x90 ∧ s.glyphAt 0x087 0xE0 0x90 0xE0 0x90 0xE0 ∧
      s.glyphAt 0x08C 0xF0 0x80 0x80 0x80 0xF0 ∧ s.glyphAt 0x091 0xE0 0x90 0x90 0x90 0xE0 ∧
      s.glyphAt 0x096 0xF0 0x80 0xF0 0x80 0xF0 ∧ s.glyphAt 0x09B 0xF0 0x80 0xF0 0x80 0x80) ∧
    (∀ a, 0xF00 ≤ a → a ≤ 0xFFF → s.cell a = some 0) ∧
    (∀ a, (a < 0x050 ∨ 0x0A0 ≤ a) → a < 0xF00 → s.cell a = if c.strictUninit then none else some 0)

/-- R200, R201, R175: `reset(config)` replaces the state from every state, the halted one included; a configuration
that fails R201 has no reset state. What the ports hold and the host keeps is the model's choice (log 17). -/
def Obligations.ResetReplacesTheState : Prop :=
  ∀ (s : State) (c : Config) (q : List HostStep), s.pending = .reset c :: q →
    (1 ≤ c.stackDepth → c.stackFaultFatal = true → ∃ t, step s = .next t ∧
      t = { State.resetWith c with
            keypadIn := s.keypadIn, pause := s.pause, pending := q, draws := s.draws, log := s.log }) ∧
    (c.stackDepth = 0 ∨ c.stackFaultFatal = false → step s = .refused .illegalConfiguration)

/-- R202: a load of at most 3584 bytes before the first tick sets the cells from `0x200` up and nothing else, with a
Warning above 3232 bytes; a longer one, or one during a run, is refused (D38, log 13). -/
def Obligations.LoadPlacesTheImage : Prop :=
  ∀ (s : State) (bytes : List Byte) (q : List HostStep), s.pending = .load bytes :: q →
    s.mem.wf s.config.strictUninit = true →
    (s.loadOpen = true → bytes.length ≤ 3584 → ∃ t, step s = .next t ∧
      (∀ k (h : k < bytes.length), t.cell (0x200 + k) = some bytes[k]) ∧
      (∀ a, a < 0x200 ∨ 0x200 + bytes.length ≤ a → t.cell a = s.cell a) ∧
      t.log = s.log ++ (if bytes.length > 3232 then [.oversizedRom .warning] else []) ∧
      t = { s with mem := t.mem, log := t.log, pending := q }) ∧
    (s.loadOpen = true → bytes.length > 3584 → step s = .refused .romTooLong) ∧
    (s.loadOpen = false → step s = .refused .loadNotLegal)

/-- R190, R207 and logs 12, 13: `rewind(n)` pops `n` frames and restores the fields of the last one popped: the
framebuffer and the listed fields, and nothing else; `rewind(0)` changes nothing; more frames than the ring holds, and a
machine without rewind, are refused. That the last one popped is meant, and the refusals, are the model's reading. -/
def Obligations.RewindRestoresTheListedFields : Prop :=
  ∀ (s : State) (q : List HostStep),
    (∀ (k : Nat) (f : RewindFrame) (newer rest : List RewindFrame), s.pending = .rewind (k + 1) :: q →
      s.config.rewindDepth ≠ 0 → s.mem.wf s.config.strictUninit = true →
      Memory.wfFrom s.config.strictUninit fbBase f.fb = true → s.rewind = newer ++ f :: rest → newer.length = k →
      ∃ t, step s = .next t ∧
        (∀ a, a < 0xF00 → t.cell a = s.cell a) ∧
        (∀ a, 0xF00 ≤ a → t.cell a = f.fb.cell s.config.strictUninit a) ∧
        t = { s with
              mem := t.mem, v := f.v, dt := f.dt, st := f.st, pc := f.pc, stack := f.stack, sp := f.sp,
              waitingForKey := f.waitingForKey, spinning := f.spinning, drawFlag := f.drawFlag, rewind := rest,
              pending := q }) ∧
    (s.pending = .rewind 0 :: q → s.config.rewindDepth ≠ 0 → step s = .next { s with pending := q }) ∧
    (∀ n, s.pending = .rewind n :: q → s.config.rewindDepth ≠ 0 → n > s.rewind.length →
      step s = .refused .rewindTooFar) ∧
    (∀ n, s.pending = .rewind n :: q → s.config.rewindDepth = 0 → step s = .refused .rewindDisabled)

-- The tick (40_decode_dispatch.md) and errors (60_exceptions.md).

/-- R80, R87: when the bytes at the pc decode to an instruction, a step samples the keypad, runs `exec` of it, and,
unless that raised Fatal, captures `prev_keypad` and pushes the rewind frame; nothing else is added (D2, D31, D36). -/
def Obligations.StepRunsTheDecodedInstruction : Prop :=
  ∀ (s : State) (w : Word) (i : Instr), s.Runs w → decode s.config w = .instr i →
    (s.waitingForKey = true → ∃ x, i = .ldVxK x) →
    (∀ f, exec i { s with keypad := s.keypadIn, loadOpen := false } ≠ .fault f) ∧
    (∀ f, exec i { s with keypad := s.keypadIn, loadOpen := false } = .refused f → step s = .refused f) ∧
    (∀ t, exec i { s with keypad := s.keypadIn, loadOpen := false } = .next t →
      (t.halt = true → step s = .next t) ∧
      (t.halt = false → ∃ u, step s = .next u ∧
        u.prevKeypad = t.keypad ∧
        u.rewind = (if t.config.rewindDepth = 0 then t.rewind
          else (t.frame s.pc (decodedRecord w (.instr i)) :: t.rewind).take t.config.rewindDepth) ∧
        u = { t with prevKeypad := u.prevKeypad, rewind := u.rewind }))

/-- R45, R81, R173, R177: the fetch reads the high byte, then the low byte, each with its own checks, and a failing
fetch is a Fatal tick whose event carries the word 0. The range check is the spec's own (D9), and so are the precision
and the order of the checks (D17; log 23). -/
def Obligations.FetchIsBigEndianAndTraps : Prop :=
  ∀ (s : State),
    (∀ hi lo, s.pc.toNat + 1 ≤ 0xFFF → s.cell s.pc.toNat = some hi → s.cell (s.pc.toNat + 1) = some lo →
      s.fetch = .ok (hi ++ lo)) ∧
    (s.pending = [] → s.pause = false → s.halt = false →
      (s.cell s.pc.toNat = none → step s = .next ({ s with keypad := s.keypadIn, loadOpen := false }.halted 6 0)) ∧
      (s.pc.toNat = 0xFFF → step s = .next ({ s with keypad := s.keypadIn, loadOpen := false }.halted 8 0)) ∧
      (s.pc.toNat + 1 ≤ 0xFFF → s.cell (s.pc.toNat + 1) = none →
        step s = .next ({ s with keypad := s.keypadIn, loadOpen := false }.halted 6 0)))

/-- R88, R89, R173: a tick on a word that is no instruction: an Unclassified word is a Warning and a no-op of width 2,
or Fatal under `INVALID_FATAL`; a word that the configuration alone puts into a set raises the set's error (log 15).
The rewind frame is pushed as after an instruction (R190). That a data word advances the pc by 2 is D15, the precision
of a Fatal tick D17. -/
def Obligations.WordsThatAreNoInstruction : Prop :=
  ∀ (s : State) (w : Word), s.Runs w → s.waitingForKey = false →
    (decode s.config w = .unclassified w → s.config.invalidFatal = false → ∃ t, step s = .next t ∧
      t.pc = s.pc + 2 ∧ t.log = s.log ++ [.cpu .warning 1 s.pc w] ∧ t.prevKeypad = s.keypadIn ∧
      t.rewind = (if s.config.rewindDepth = 0 then s.rewind
        else (t.frame s.pc (decodedRecord w (.unclassified w)) :: s.rewind).take s.config.rewindDepth) ∧
      t = { s with keypad := s.keypadIn, prevKeypad := t.prevKeypad, loadOpen := false, pc := t.pc, log := t.log,
                   rewind := t.rewind }) ∧
    (decode s.config w = .unclassified w → s.config.invalidFatal = true →
      step s = .next ({ s with keypad := s.keypadIn, loadOpen := false }.halted 1 w)) ∧
    (decode s.config w = .invalid .extendedUnsupported w →
      step s = .next ({ s with keypad := s.keypadIn, loadOpen := false }.halted 3 w)) ∧
    (decode s.config w = .invalid .banned w →
      step s = .next ({ s with keypad := s.keypadIn, loadOpen := false }.halted 2 w))

/-- R173, R85: an instruction that raises Fatal leaves everything but `halt`, `fault_cause` and one event as it found
it (D17). -/
def Obligations.FatalIsPrecise : Prop :=
  ∀ (i : Instr) (s t : State), s.halt = false → exec i s = .next t → t.halt = true →
    t.faultCause ∈ ([2, 3, 4, 5, 6, 8] : List (BitVec 4)) ∧ t = s.halted t.faultCause (encode i)

/-- R174, R80: a tick of the halted machine samples the keypad and emits the Fatal event, and changes nothing else
(D17; the reported word, log 19). -/
def Obligations.HaltedTickOnlyReports : Prop :=
  ∀ (s : State), s.pending = [] → s.pause = false → s.halt = true → ∃ t w, step s = .next t ∧
    t.log = s.log ++ [.cpu .fatal s.faultCause s.pc w] ∧
    (∀ v, s.fetch = .ok v → w = v) ∧ (∀ k, s.fetch = .error k → w = 0) ∧
    t = { s with keypad := s.keypadIn, loadOpen := false, log := t.log }

/-- R174: the tick after a Fatal tick emits the same event again, with the same contents, and changes nothing else
(log 19). -/
def Obligations.FatalIsReReportedIdentically : Prop :=
  ∀ (s t : State), s.pending = [] → s.pause = false → s.halt = false → step s = .next t → t.halt = true →
    ∃ e u, t.log = s.log ++ [e] ∧ step t = .next u ∧ u.log = t.log ++ [e] ∧ u = { t with log := u.log }

-- Rules of the whole machine.

/-- Every instruction answers a next state, in every state of the Fatal stack policy (R176): none is refused, none
stops the machine. Derived from R83, R85, R173. -/
def Obligations.EveryInstructionAnswers : Prop :=
  ∀ (i : Instr) (s : State), s.config.stackFaultFatal = true → ∃ t, exec i s = .next t

/-- R13, R84: the next pc of an instruction that transfers no control: the next word, the word after it for a skip, or
the same word for a waiting `ld vX, k` and for every Fatal outcome (the wrap is D7). -/
def Obligations.NextPcIsOneOfFour : Prop :=
  ∀ (i : Instr) (s t : State), exec i s = .next t → s.halt = false →
    (t.halt = true → t.pc = s.pc) ∧
    (t.halt = false → i.transfers = false →
      t.pc = s.pc + 2 ∨ (i.skips = true ∧ t.pc = s.pc + 4) ∨ ((∃ x, i = .ldVxK x) ∧ t.pc = s.pc))

/-- R11: no instruction changes `vF` but those of the flag table and those that name it as their destination (D21,
D22, D23). -/
def Obligations.OnlyFlagInstructionsChangeTheFlag : Prop :=
  ∀ (i : Instr) (s t : State), exec i s = .next t → t.reg vF ≠ s.reg vF → i.mayWriteFlag s.config = true

/-- R12, R14 to R16, R18, R49, R129, R153: which instructions change which special state (D26, D29, D32). -/
def Obligations.OnlyTheirInstructionsChangeSpecialState : Prop :=
  ∀ (i : Instr) (s t : State), exec i s = .next t →
    (t.i ≠ s.i → (∃ a, i = .ldIAddr a) ∨ (∃ x, i = .addIVx x) ∨ (∃ x, i = .ldFVx x)) ∧
    (t.sp ≠ s.sp ∨ t.stack ≠ s.stack → (∃ a, i = .call a) ∨ i = .ret) ∧
    (t.dt ≠ s.dt → ∃ x, i = .ldDtVx x) ∧ (t.st ≠ s.st → ∃ x, i = .ldStVx x) ∧
    (t.spinning ≠ s.spinning → t.spinning = true ∧ t.pc = s.pc ∧ ((∃ a, i = .jpAddr a) ∨ (∃ a, i = .jpV0 a))) ∧
    (t.drawFlag ≠ s.drawFlag → t.drawFlag = true ∧ (i = .cls ∨ ∃ x y n, i = .drw x y n)) ∧
    (t.waitingForKey ≠ s.waitingForKey → ∃ x, i = .ldVxK x) ∧
    (t.mem ≠ s.mem → i = .cls ∨ (∃ x y n, i = .drw x y n) ∨ (∃ x, i = .ldBVx x) ∨ (∃ x, i = .ldIndVx x)) ∧
    t.keypad = s.keypad ∧ t.prevKeypad = s.prevKeypad ∧ t.config = s.config ∧ t.rewind = s.rewind ∧
    t.keypadIn = s.keypadIn ∧ t.pause = s.pause ∧ t.loadOpen = s.loadOpen ∧ t.pending = s.pending

/-- The invariant holds at reset, under every legal configuration. -/
def Obligations.InvariantHoldsAtReset : Prop :=
  ∀ (c : Config), c.legal = true → (State.resetWith c).Inv ∧ (State.resetWith c).KeyWaitInv

/-- Every step of every agent keeps the invariant: memory canonical, the stack in its bounds, `halt` exactly with a
cause, the configuration legal, the rewind ring within its depth. -/
def Obligations.StepKeepsTheInvariant : Prop :=
  ∀ (s t : State), s.Inv → step s = .next t → t.Inv

/-- R164 ("nothing has written memory since"): on a machine without rewind, every step keeps that a waiting CPU stands
at its `ld vX, k`. -/
def Obligations.StepKeepsTheKeyWaitWord : Prop :=
  ∀ (s t : State), s.KeyWaitInv → step s = .next t → t.KeyWaitInv

/-- A machine without rewind never stops with a fault: its one fault is raised only where the key-wait invariant fails
(log 11). -/
def Obligations.StepNeverFaultsWithoutRewind : Prop :=
  ∀ (s : State) (f : Fault), s.config.rewindDepth = 0 → s.KeyWaitInv → step s ≠ .fault f

/-- What a step may be refused for: only an illegal request of the host, or a stack fault under the policy R176 has a
model refuse. -/
def Obligations.OnlyHostRequestsAreRefused : Prop :=
  ∀ (s : State) (r : Refusal), s.config.stackFaultFatal = true → step s = .refused r →
    (∃ c q, s.pending = .reset c :: q ∧ c.legal = false) ∨
    (∃ b q, s.pending = .load b :: q ∧ (s.loadOpen = false ∨ b.length > 3584)) ∨
    (∃ n q, s.pending = .rewind n :: q ∧ (s.config.rewindDepth = 0 ∨ n > s.rewind.length))

/-- R178: the log is append-only: no step of any agent removes or changes an event (log 9). That `reset`, after
which R200 has nothing survive, keeps the log is the model's choice (log 17). -/
def Obligations.TheLogOnlyGrows : Prop :=
  ∀ (s t : State), step s = .next t → ∃ new, t.log = s.log ++ new

/-- R7, R17, R153, R189: the host's port steps: the keypad and pause levels are driven, `draw_ack` clears `draw_flag`,
and a paused machine gets no `cpu_tick`, while its timer strobes still tick the timers (D29, D37; logs 3 and 16). -/
def Obligations.PortStepsChangeOnlyTheirPort : Prop :=
  ∀ (s : State) (q : List HostStep),
    (∀ levels, s.pending = .keypadIn levels :: q → step s = .next { s with keypadIn := levels, pending := q }) ∧
    (∀ level, s.pending = .pause level :: q → step s = .next { s with pause := level, pending := q }) ∧
    (s.pending = .drawAck :: q → step s = .next { s with drawFlag := false, pending := q }) ∧
    (s.pending = [] → s.pause = true → step s = .next s) ∧
    (∀ st dt, s.pending = .strobes true st dt :: q → s.pause = true → ∃ t, step s = .next t ∧
      t.st.toNat = s.st.toNat - st.toNat ∧ t.dt.toNat = s.dt.toNat - dt.toNat ∧
      t = { s with st := t.st, dt := t.dt, pending := q })

/-- Equal canonical memories are equal data: two that agree on every cell of the address space are one list. Derived
from R40, R41 and the model's representation (log 7). -/
def Obligations.CanonicalMemoriesAreEqualData : Prop :=
  ∀ (strict : Bool) (m m' : Memory), m.wf strict = true → m'.wf strict = true →
    (∀ a, a ≤ 0xFFF → m.cell strict a = m'.cell strict a) → m = m'
end

