-- ==== Sys2Proof/Laws/Display.lean ====
section
/-! SUPPORT. What drawing does, said once: one byte, one row, the rows in sequence, and a row's masks as pixels. -/

namespace Sys2Proof.Machine

/-- The collision formula of 44_display.md R151 is the overlap of mask and old byte (R152). -/
theorem collision_eq (old mask : Byte) : ((old ^^^ mask) ^^^ old) &&& old = mask &&& old := by
  ext k hk
  simp only [BitVec.getElem_and, BitVec.getElem_xor]
  cases old[k] <;> cases mask[k] <;> rfl

theorem fbAddr_ge (y bx : Nat) : fbBase ≤ fbAddr y bx := by unfold fbAddr; omega

theorem fbAddr_lt {y bx : Nat} (hy : y < 32) (hb : bx < 8) : fbAddr y bx < memSize := by
  unfold fbAddr fbBase memSize; omega

theorem fbAddr_inj {y bx y' bx' : Nat} (hb : bx < 8) (hb' : bx' < 8) :
    fbAddr y bx = fbAddr y' bx' ↔ y = y' ∧ bx = bx' := by unfold fbAddr; omega

/-- One framebuffer byte: it is always set, so the XOR always answers. -/
theorem xorByte_spec {strict : Bool} (m : Memory) {a : Nat} (mask : Byte) (hlo : fbBase ≤ a) (hhi : a < memSize) :
    ∃ old, m.cell strict a = some old ∧
      xorByte strict m a mask = .ok (m.set strict a (old ^^^ mask), mask &&& old != 0) := by
  obtain ⟨old, hold⟩ := Memory.cell_framebuffer strict m hlo
  refine ⟨old, hold, ?_⟩
  have ha : a ≤ 0xFFF := by unfold memSize at hhi; omega
  have ha' : ¬ a > 0xFFF := by omega
  have hr : m.read strict a = .ok old := Memory.read_ok.mpr ⟨ha, hold⟩
  unfold xorByte
  simp only [hr, Memory.write_eq, ha', if_false, collision_eq]

/-- The mask a row XORs into cell `b`. -/
def rowMask (p : SpritePos) (y : Nat) (row : Byte) (b : Nat) : Byte :=
  if b = fbAddr y p.bx then maskLeft row p.sh
  else if b = fbAddr y ((p.bx + 1) % 8) then maskRight row p.sh
  else 0

/-- The byte of a cell, for cells that are set. -/
def Memory.byteAt (strict : Bool) (m : Memory) (a : Nat) : Byte := (m.cell strict a).getD 0

/-- What drawing one row does to every cell, and when it collides. -/
theorem drawRow_spec {strict : Bool} {m : Memory} {p : SpritePos} {y : Nat} (row : Byte) (hwf : m.wf strict = true)
    (hy : y < 32) (hb : p.bx < 8) :
    ∃ m' c, drawRow strict m p y row = .ok (m', c) ∧ m'.wf strict = true ∧
      (∀ b, m'.cell strict b = (m.cell strict b).map (· ^^^ rowMask p y row b)) ∧
      (c = true ↔ maskLeft row p.sh &&& m.byteAt strict (fbAddr y p.bx) ≠ 0 ∨
        maskRight row p.sh &&& m.byteAt strict (fbAddr y ((p.bx + 1) % 8)) ≠ 0) := by
  have hb' : (p.bx + 1) % 8 < 8 := Nat.mod_lt _ (by omega)
  have hne : fbAddr y ((p.bx + 1) % 8) ≠ fbAddr y p.bx := by
    intro h
    have := ((fbAddr_inj hb' hb).mp h).2
    omega
  obtain ⟨oldL, hL, hxL⟩ := xorByte_spec (strict := strict) m (maskLeft row p.sh) (fbAddr_ge y p.bx) (fbAddr_lt hy hb)
  have hcell1 := fun b => Memory.cell_set (a := fbAddr y p.bx) (oldL ^^^ maskLeft row p.sh) b hwf
  have hwf1 := Memory.set_wf (a := fbAddr y p.bx) (oldL ^^^ maskLeft row p.sh) hwf (fbAddr_lt hy hb)
  unfold drawRow
  simp only [hxL]
  by_cases hs : p.sh = 0
  · refine ⟨_, _, if_pos hs, hwf1, fun b => ?_, ?_⟩
    · rw [hcell1]
      by_cases h : b = fbAddr y p.bx
      · subst h; simp [rowMask, hL]
      · simp only [h, if_false, rowMask, maskRight, hs, if_true]
        split <;> simp
    · simp [Memory.byteAt, hL, maskRight, hs]
  · rw [if_neg hs]
    obtain ⟨oldR, hR, hxR⟩ := xorByte_spec (strict := strict) (m.set strict (fbAddr y p.bx) (oldL ^^^ maskLeft row p.sh))
      (maskRight row p.sh) (fbAddr_ge y ((p.bx + 1) % 8)) (fbAddr_lt hy hb')
    have hR' : m.cell strict (fbAddr y ((p.bx + 1) % 8)) = some oldR := by
      rw [hcell1, if_neg hne] at hR; exact hR
    rw [hxR]
    refine ⟨_, _, rfl, Memory.set_wf _ hwf1 (fbAddr_lt hy hb'), fun b => ?_, ?_⟩
    · rw [Memory.cell_set _ b hwf1, hcell1]
      by_cases h : b = fbAddr y ((p.bx + 1) % 8)
      · subst h
        simp [rowMask, hne, hR']
      · by_cases h2 : b = fbAddr y p.bx
        · subst h2; simp [rowMask, hL, h]
        · simp [rowMask, h, h2]
    · simp [Memory.byteAt, hL, hR', Bool.or_eq_true]

/-- The rows in sequence: when the sprite's cells can be read, drawing answers, with one memory between each row and the
next, each row read from the memory the rows before it left, and a collision of the whole when some row collides. -/
theorem drawRows_trace {strict : Bool} {base : Nat} {p : SpritePos} (hb : p.bx < 8) {n : Nat} :
    ∀ {m : Memory} {r : Nat} {coll : Bool}, m.wf strict = true →
      (∀ k < n, base + (r + k) ≤ 0xFFF ∧ ∃ b, m.cell strict (base + (r + k)) = some b) →
      ∃ (ms : Nat → Memory) (c : Nat → Bool) (row : Nat → Byte) (cFinal : Bool),
        drawRows strict m base p r n coll = .ok (ms n, cFinal) ∧ ms 0 = m ∧
        (∀ k ≤ n, (ms k).wf strict = true) ∧
        (∀ k < n, (ms k).cell strict (base + (r + k)) = some (row k) ∧
          drawRow strict (ms k) p ((p.y0 + (r + k)) % 32) (row k) = .ok (ms (k + 1), c k)) ∧
        (cFinal = true ↔ coll = true ∨ ∃ k < n, c k = true) := by
  induction n with
  | zero =>
    intro m r coll hwf _
    refine ⟨fun _ => m, fun _ => false, fun _ => 0, coll, rfl, rfl, fun _ _ => hwf, fun k hk => absurd hk (by omega), ?_⟩
    simp
  | succ n ih =>
    intro m r coll hwf hcells
    obtain ⟨hrange, row0, hrow⟩ := hcells 0 (by omega)
    rw [Nat.add_zero] at hrange hrow
    obtain ⟨m1, c0, hdraw, hwf1, hcell1, -⟩ :=
      drawRow_spec (strict := strict) (m := m) (p := p) (y := (p.y0 + r) % 32) row0 hwf (Nat.mod_lt _ (by omega)) hb
    have hcells1 : ∀ k < n, base + (r + 1 + k) ≤ 0xFFF ∧ ∃ b, m1.cell strict (base + (r + 1 + k)) = some b := by
      intro k hk
      obtain ⟨h1, b, h2⟩ := hcells (k + 1) (by omega)
      have e : r + (k + 1) = r + 1 + k := by omega
      rw [e] at h1 h2
      exact ⟨h1, _, by rw [hcell1, h2]; rfl⟩
    obtain ⟨ms, c, row, cF, hrun, h0, hwfs, hsteps, hcF⟩ := ih (coll := coll || c0) hwf1 hcells1
    refine ⟨fun k => match k with | 0 => m | k + 1 => ms k, fun k => match k with | 0 => c0 | k + 1 => c k,
      fun k => match k with | 0 => row0 | k + 1 => row k, cF, ?_, rfl, ?_, ?_, ?_⟩
    · have hread : m.read strict (base + r) = .ok row0 := Memory.read_ok.mpr ⟨hrange, hrow⟩
      unfold drawRows
      simp only [hread, hdraw]
      exact hrun
    · intro k hk
      cases k with
      | zero => exact hwf
      | succ k => exact hwfs k (by omega)
    · intro k hk
      cases k with
      | zero =>
        refine ⟨by simpa using hrow, ?_⟩
        simp only [Nat.add_zero, h0]
        exact hdraw
      | succ k =>
        have := hsteps k (by omega)
        have e : r + (k + 1) = r + 1 + k := by omega
        simp only [e]
        exact this
    · rw [hcF]
      simp only [Bool.or_eq_true]
      constructor
      · rintro ((h | h) | ⟨k, hk, h⟩)
        · exact .inl h
        · exact .inr ⟨0, by omega, h⟩
        · exact .inr ⟨k + 1, by omega, h⟩
      · rintro (h | ⟨k, hk, h⟩)
        · exact .inl (.inl h)
        · cases k with
          | zero => exact .inl (.inr h)
          | succ k => exact .inr ⟨k, by omega, h⟩

/-- A pixel after a row: the pixel before, XOR the row's mask bit there. -/
theorem pixel_drawRow {strict : Bool} {m m' : Memory} {p : SpritePos} {y : Nat} {row : Byte}
    (hcell : ∀ b, m'.cell strict b = (m.cell strict b).map (· ^^^ rowMask p y row b)) (px py : Nat) :
    m'.pixel strict px py =
      (m.pixel strict px py ^^ (rowMask p y row (fbAddr py (px / 8))).getLsbD (7 - px % 8)) := by
  obtain ⟨old, hold⟩ := Memory.cell_framebuffer strict m (fbAddr_ge py (px / 8))
  unfold Memory.pixel
  rw [hcell, hold]
  simp [BitVec.getLsbD_xor]

/-- A row's mask bits as pixels (44_display.md R152): bit `7 - c` of row `r` lands on `((vx + c) mod 64, (vy + r) mod 32)`. -/
theorem rowMask_hits (vx vy row : Byte) (r : Nat) {px py : Nat} (hpx : px < 64) :
    (rowMask (spritePos vx vy) (((spritePos vx vy).y0 + r) % 32) row (fbAddr py (px / 8))).getLsbD (7 - px % 8) = true ↔
      rowHits row vx.toNat vy.toNat r px py := by
  have hv : vx.toNat < 256 := vx.isLt
  have hq : px / 8 < 8 := by omega
  have hb : vx.toNat / 8 % 8 < 8 := Nat.mod_lt _ (by omega)
  have hb' : (vx.toNat / 8 % 8 + 1) % 8 < 8 := Nat.mod_lt _ (by omega)
  have hyy : (vy.toNat % 32 + r) % 32 = (vy.toNat + r) % 32 := by omega
  unfold rowMask rowHits
  simp only [spritePos, fbAddr_inj hq hb, fbAddr_inj hq hb', hyy]
  by_cases hy : py = (vy.toNat + r) % 32
  · simp only [hy, true_and, and_true]
    by_cases h1 : px / 8 = vx.toNat / 8 % 8
    · rw [if_pos h1, maskLeft, BitVec.getLsbD_ushiftRight]
      constructor
      · intro h
        have hlt := BitVec.lt_of_getLsbD h
        exact ⟨px % 8 - vx.toNat % 8, by omega, by rw [← h]; congr 1; omega, by omega⟩
      · rintro ⟨c, hc, hbit, hpos⟩
        rw [← hbit]; congr 1; omega
    · rw [if_neg h1]
      by_cases h2 : px / 8 = (vx.toNat / 8 % 8 + 1) % 8
      · rw [if_pos h2]
        unfold maskRight
        by_cases hs : vx.toNat % 8 = 0
        · rw [if_pos hs]
          simp only [BitVec.ofNat_eq_ofNat, BitVec.getLsbD_zero, Bool.false_eq_true, false_iff, not_exists, not_and]
          intro c hc _ hpos
          omega
        · rw [if_neg hs, BitVec.getLsbD_shiftLeft]
          constructor
          · intro h
            simp only [Bool.and_eq_true, decide_eq_true_eq, Bool.not_eq_true', decide_eq_false_iff_not] at h
            exact ⟨px % 8 + 8 - vx.toNat % 8, by omega, by rw [← h.2]; congr 1; omega, by omega⟩
          · rintro ⟨c, hc, hbit, hpos⟩
            simp only [Bool.and_eq_true, decide_eq_true_eq, Bool.not_eq_true', decide_eq_false_iff_not]
            refine ⟨⟨by omega, by omega⟩, ?_⟩
            rw [← hbit]; congr 1; omega
      · rw [if_neg h2]
        simp only [BitVec.ofNat_eq_ofNat, BitVec.getLsbD_zero, Bool.false_eq_true, false_iff, not_exists, not_and]
        intro c hc _ hpos
        omega
  · simp only [hy, false_and, if_false, and_false, exists_false, BitVec.ofNat_eq_ofNat, BitVec.getLsbD_zero,
      Bool.false_eq_true]

/-- A byte is not 0 exactly when it has a 1 bit. -/
theorem byte_ne_zero (b : Byte) : b ≠ 0 ↔ ∃ k < 8, b.getLsbD k = true := by
  constructor
  · intro h
    by_contra hc
    push Not at hc
    apply h
    apply BitVec.eq_of_getLsbD_eq
    intro k hk
    simpa using hc k hk
  · rintro ⟨k, _, hk⟩ h
    subst h
    simp at hk

/-- A row collides exactly when it turns a lit pixel off. -/
theorem drawRow_collides {strict : Bool} {m m' : Memory} {p : SpritePos} {y : Nat} {row : Byte} {c : Bool}
    (hy : y < 32) (hb : p.bx < 8)
    (hcell : ∀ b, m'.cell strict b = (m.cell strict b).map (· ^^^ rowMask p y row b))
    (hc : c = true ↔ maskLeft row p.sh &&& m.byteAt strict (fbAddr y p.bx) ≠ 0 ∨
        maskRight row p.sh &&& m.byteAt strict (fbAddr y ((p.bx + 1) % 8)) ≠ 0) :
    c = true ↔ ∃ px < 64, ∃ py < 32, m.pixel strict px py = true ∧ m'.pixel strict px py = false := by
  have hb' : (p.bx + 1) % 8 < 8 := Nat.mod_lt _ (by omega)
  have hne : fbAddr y ((p.bx + 1) % 8) ≠ fbAddr y p.bx := by
    intro h
    have := ((fbAddr_inj hb' hb).mp h).2
    omega
  have key : ∀ q < 8, ∀ mask : Byte, rowMask p y row (fbAddr y q) = mask → mask &&& m.byteAt strict (fbAddr y q) ≠ 0 →
      ∃ px < 64, ∃ py < 32, m.pixel strict px py = true ∧ m'.pixel strict px py = false := by
    intro q hq mask hmask hov
    obtain ⟨k, hk, hbit⟩ := (byte_ne_zero _).mp hov
    rw [BitVec.getLsbD_and, Bool.and_eq_true] at hbit
    have e1 : (8 * q + (7 - k)) / 8 = q := by omega
    have e2 : 7 - (8 * q + (7 - k)) % 8 = k := by omega
    refine ⟨8 * q + (7 - k), by omega, y, hy, ?_, ?_⟩
    · unfold Memory.pixel; rw [e1, e2]; exact hbit.2
    · rw [pixel_drawRow hcell, e1, e2, hmask, hbit.1]
      unfold Memory.pixel; rw [e1, e2]
      show ((Memory.byteAt strict m (fbAddr y q)).getLsbD k ^^ true) = false
      rw [hbit.2]; rfl
  rw [hc]
  constructor
  · rintro (h | h)
    · exact key p.bx hb _ (by simp [rowMask]) h
    · exact key _ hb' _ (by simp [rowMask, hne]) h
  · rintro ⟨px, hpx, py, hpy, hlit, hoff⟩
    rw [pixel_drawRow hcell, hlit] at hoff
    have hm : (rowMask p y row (fbAddr py (px / 8))).getLsbD (7 - px % 8) = true := by simpa using hoff
    have hlit' : (m.byteAt strict (fbAddr py (px / 8))).getLsbD (7 - px % 8) = true := hlit
    unfold rowMask at hm
    split at hm
    · next h =>
      left
      rw [← h]
      exact (byte_ne_zero _).mpr ⟨7 - px % 8, by omega, by rw [BitVec.getLsbD_and, hm, hlit']; rfl⟩
    · split at hm
      · next h =>
        right
        rw [← h]
        exact (byte_ne_zero _).mpr ⟨7 - px % 8, by omega, by rw [BitVec.getLsbD_and, hm, hlit']; rfl⟩
      · simp at hm

/-- The byte column of a sprite position is in range. -/
theorem spritePos_bx_lt (vx vy : Byte) : (spritePos vx vy).bx < 8 := by unfold spritePos; dsimp only; omega

end Sys2Proof.Machine
end

