-- ==== Sys2Proof/Laws/Encoding.lean ====
section
/-! SUPPORT. The fields of the three word shapes, a word rebuilt from its fields, and the words as masks of nibbles. -/

namespace Sys2Proof

-- The fields of each format (30_encoding.md R61, R62).

@[simp] theorem opNibble_formatA (op : Nibble) (nnn : Addr) : opNibble (formatA op nnn) = op :=
  BitVec.extractLsb'_append_eq_left

@[simp] theorem fieldNnn_formatA (op : Nibble) (nnn : Addr) : fieldNnn (formatA op nnn) = nnn :=
  BitVec.extractLsb'_append_eq_right

/-- Formats RB and RR are format A with the address split (R61: the fields lie in one word). -/
theorem formatRB_eq (op : Nibble) (x : RegNum) (kk : Byte) : formatRB op x kk = formatA op (x ++ kk) := rfl

theorem formatRR_eq (op : Nibble) (x y : RegNum) (n : Nibble) : formatRR op x y n = formatRB op x (y ++ n) := rfl

@[simp] theorem opNibble_formatRB (op : Nibble) (x : RegNum) (kk : Byte) : opNibble (formatRB op x kk) = op :=
  opNibble_formatA op (x ++ kk)

@[simp] theorem opNibble_formatRR (op : Nibble) (x y : RegNum) (n : Nibble) : opNibble (formatRR op x y n) = op :=
  opNibble_formatRB op x (y ++ n)

theorem fieldX_eq (w : Word) : fieldX w = (fieldNnn w).extractLsb' 8 4 := by
  unfold fieldX fieldNnn
  ext k hk
  simp only [BitVec.getElem_extractLsb', BitVec.getLsbD_extractLsb', Nat.zero_add]
  simp [show 8 + k < 12 by omega]

theorem fieldKk_eq (w : Word) : fieldKk w = (fieldNnn w).extractLsb' 0 8 := by
  unfold fieldKk fieldNnn
  ext k hk
  simp only [BitVec.getElem_extractLsb', BitVec.getLsbD_extractLsb', Nat.zero_add]
  simp [show k < 12 by omega]

theorem fieldY_eq (w : Word) : fieldY w = (fieldKk w).extractLsb' 4 4 := by
  unfold fieldY fieldKk
  ext k hk
  simp only [BitVec.getElem_extractLsb', BitVec.getLsbD_extractLsb', Nat.zero_add]
  simp [show 4 + k < 8 by omega]

theorem fieldN_eq (w : Word) : fieldN w = (fieldKk w).extractLsb' 0 4 := by
  unfold fieldN fieldKk
  ext k hk
  simp only [BitVec.getElem_extractLsb', BitVec.getLsbD_extractLsb', Nat.zero_add]
  simp [show k < 8 by omega]

@[simp] theorem fieldX_formatRB (op : Nibble) (x : RegNum) (kk : Byte) : fieldX (formatRB op x kk) = x := by
  rw [fieldX_eq, formatRB_eq, fieldNnn_formatA]; exact BitVec.extractLsb'_append_eq_left

@[simp] theorem fieldKk_formatRB (op : Nibble) (x : RegNum) (kk : Byte) : fieldKk (formatRB op x kk) = kk := by
  rw [fieldKk_eq, formatRB_eq, fieldNnn_formatA]; exact BitVec.extractLsb'_append_eq_right

@[simp] theorem fieldX_formatRR (op : Nibble) (x y : RegNum) (n : Nibble) : fieldX (formatRR op x y n) = x :=
  fieldX_formatRB op x (y ++ n)

@[simp] theorem fieldY_formatRR (op : Nibble) (x y : RegNum) (n : Nibble) : fieldY (formatRR op x y n) = y := by
  rw [fieldY_eq, formatRR_eq, fieldKk_formatRB]; exact BitVec.extractLsb'_append_eq_left

@[simp] theorem fieldN_formatRR (op : Nibble) (x y : RegNum) (n : Nibble) : fieldN (formatRR op x y n) = n := by
  rw [fieldN_eq, formatRR_eq, fieldKk_formatRB]; exact BitVec.extractLsb'_append_eq_right

@[simp] theorem fieldKk_formatRR (op : Nibble) (x y : RegNum) (n : Nibble) : fieldKk (formatRR op x y n) = y ++ n :=
  fieldKk_formatRB op x (y ++ n)

@[simp] theorem fieldNnn_formatRB (op : Nibble) (x : RegNum) (kk : Byte) : fieldNnn (formatRB op x kk) = x ++ kk :=
  fieldNnn_formatA op (x ++ kk)

-- A word is its fields.

/-- A word rebuilt from its leading nibble and address. -/
theorem formatA_fields (w : Word) : formatA (opNibble w) (fieldNnn w) = w := by
  unfold formatA opNibble fieldNnn
  rw [BitVec.extractLsb'_append_extractLsb'_eq_extractLsb' (by omega)]
  exact BitVec.extractLsb'_eq_self

/-- A word rebuilt from its leading nibble, `X` and `kk`. -/
theorem formatRB_fields (w : Word) : formatRB (opNibble w) (fieldX w) (fieldKk w) = w := by
  have h : fieldX w ++ fieldKk w = fieldNnn w := by
    unfold fieldX fieldKk fieldNnn
    rw [BitVec.extractLsb'_append_extractLsb'_eq_extractLsb' (by omega)]
  rw [formatRB_eq, h, formatA_fields]

/-- A word rebuilt from its four nibbles. -/
theorem formatRR_fields (w : Word) : formatRR (opNibble w) (fieldX w) (fieldY w) (fieldN w) = w := by
  have h : fieldY w ++ fieldN w = fieldKk w := by
    unfold fieldY fieldN fieldKk
    rw [BitVec.extractLsb'_append_extractLsb'_eq_extractLsb' (by omega)]
  rw [formatRR_eq, h, formatRB_fields]

-- Words ANDed nibble by nibble, which is how a template covers a word (R64).

theorem formatA_and (op op' : Nibble) (a a' : Addr) : formatA op a &&& formatA op' a' = formatA (op &&& op') (a &&& a') :=
  BitVec.and_append

theorem formatRB_and (op op' : Nibble) (x x' : RegNum) (k k' : Byte) :
    formatRB op x k &&& formatRB op' x' k' = formatRB (op &&& op') (x &&& x') (k &&& k') := by
  rw [formatRB_eq, formatRB_eq, formatA_and]; exact congrArg (formatA _) BitVec.and_append

theorem formatRR_and (op op' : Nibble) (x x' y y' : RegNum) (n n' : Nibble) :
    formatRR op x y n &&& formatRR op' x' y' n' = formatRR (op &&& op') (x &&& x') (y &&& y') (n &&& n') := by
  rw [formatRR_eq, formatRR_eq, formatRB_and]; exact congrArg (formatRB _ _) BitVec.and_append

-- A row's template covers a word of its own shape, whatever the fields.

theorem formatA_covered (op : Nibble) (a : Addr) : formatA op a &&& 0xF000 = formatA op 0 := by
  have h : (0xF000 : Word) = formatA 0xF 0 := rfl
  rw [h, formatA_and]
  congr 1
  · revert op; decide
  · exact BitVec.and_zero

theorem formatRB_covered (op : Nibble) (x : RegNum) (k : Byte) : formatRB op x k &&& 0xF000 = formatRB op 0 0 :=
  formatA_covered op (x ++ k)

theorem formatRB_covered_kk (op : Nibble) (x : RegNum) (k : Byte) : formatRB op x k &&& 0xF0FF = formatRB op 0 k := by
  have h : (0xF0FF : Word) = formatRB 0xF 0 0xFF := rfl
  rw [h, formatRB_and]
  congr 1
  · revert op; decide
  · exact BitVec.and_zero
  · revert k; decide

theorem formatRB_covered_x (op : Nibble) (x : RegNum) (k : Byte) : formatRB op x k &&& 0xFF00 = formatRB op x 0 := by
  have h : (0xFF00 : Word) = formatRB 0xF 0xF 0 := rfl
  rw [h, formatRB_and]
  congr 1
  · revert op; decide
  · revert x; decide
  · exact BitVec.and_zero

theorem formatRR_covered (op : Nibble) (x y : RegNum) (n : Nibble) : formatRR op x y n &&& 0xF000 = formatRR op 0 0 0 :=
  formatA_covered op (x ++ (y ++ n))

theorem formatRR_covered_n (op : Nibble) (x y : RegNum) (n : Nibble) :
    formatRR op x y n &&& 0xF00F = formatRR op 0 0 n := by
  have h : (0xF00F : Word) = formatRR 0xF 0 0 0xF := rfl
  rw [h, formatRR_and]
  congr 1
  · revert op; decide
  · exact BitVec.and_zero
  · exact BitVec.and_zero
  · revert n; decide

theorem formatRR_covered_xn (op : Nibble) (x y : RegNum) (n : Nibble) :
    formatRR op x y n &&& 0xFF0F = formatRR op x 0 n := by
  have h : (0xFF0F : Word) = formatRR 0xF 0xF 0 0xF := rfl
  rw [h, formatRR_and]
  congr 1
  · revert op; decide
  · revert x; decide
  · exact BitVec.and_zero
  · revert n; decide

theorem formatRR_covered_xy (op : Nibble) (x y : RegNum) (n : Nibble) :
    formatRR op x y n &&& 0xFFF0 = formatRR op x y 0 := by
  have h : (0xFFF0 : Word) = formatRR 0xF 0xF 0xF 0 := rfl
  rw [h, formatRR_and]
  congr 1
  · revert op; decide
  · revert x; decide
  · revert y; decide
  · exact BitVec.and_zero

end Sys2Proof
end

