-- ==== Sys2Proof/Laws/Ops.lean ====
section
/-! SUPPORT. For each shared operation, what it can do: register blocks, stores and loads through `I`, operand forms,
results and flags, the optional event, the key priority. -/

namespace Sys2Proof.Machine

-- Operands, results and flags, on naturals.

@[simp] theorem addResult_toNat (a b : Byte) : (addResult a b).toNat = (a.toNat + b.toNat) % 256 := by
  simp [addResult]

@[simp] theorem subResult_toNat (a b : Byte) : (subResult a b).toNat = (a.toNat + 256 - b.toNat) % 256 := by
  simp [subResult]

@[simp] theorem shrResult_toNat (a : Byte) : (shrResult a).toNat = a.toNat / 2 := by
  have := a.isLt
  simp only [shrResult, BitVec.toNat_ofNat]
  omega

@[simp] theorem shlResult_toNat (a : Byte) : (shlResult a).toNat = a.toNat * 2 % 256 := by
  simp [shlResult]

@[simp] theorem addIResult_toNat (i : Addr) (b : Byte) : (addIResult i b).toNat = (i.toNat + b.toNat) % 4096 := by
  simp [addIResult]

theorem flagByte_true : flagByte true = 1 := rfl
theorem flagByte_false : flagByte false = 0 := rfl

/-- A flag is 1 exactly when its condition holds, else 0. -/
theorem flagByte_decide (p : Prop) [Decidable p] : flagByte (decide p) = if p then 1 else 0 := by
  by_cases h : p <;> simp [flagByte, h]

theorem flagByte_cases (b : Bool) : (flagByte b = 0 ∨ flagByte b = 1) ∧ (flagByte b = 1 ↔ b = true) := by
  cases b <;> simp [flagByte]

theorem shrOut_toNat (a : Byte) : (flagByte (shrOut a)).toNat = a.toNat % 2 := by
  revert a; decide

theorem shlOut_toNat (a : Byte) : (flagByte (shlOut a)).toNat = a.toNat / 128 := by
  revert a; decide

@[simp] theorem State.lowNibble_toNat (s : State) (x : RegNum) : (s.lowNibble x).toNat = (s.reg x).toNat % 16 := by
  simp [State.lowNibble]

theorem State.glyphAddr_toNat (s : State) (x : RegNum) : (s.glyphAddr x).toNat = 0x050 + 5 * ((s.reg x).toNat % 16) := by
  unfold State.glyphAddr fontBase
  rw [BitVec.toNat_ofNat, State.lowNibble_toNat]
  omega

theorem State.v0Target_toNat (s : State) (nnn : Addr) :
    (s.v0Target nnn).toNat = (nnn.toNat + (s.reg 0).toNat) % 4096 := by
  have := (s.reg 0).isLt
  unfold State.v0Target
  rw [BitVec.toNat_add, BitVec.toNat_setWidth]
  omega

theorem State.shiftSource_legacy {s : State} (h : s.config.shiftMode = .legacy) (x y : RegNum) :
    s.shiftSource x y = s.reg y := by unfold State.shiftSource; rw [h]

theorem State.shiftSource_modern {s : State} (h : s.config.shiftMode = .modern) (x y : RegNum) :
    s.shiftSource x y = s.reg x := by unfold State.shiftSource; rw [h]

theorem skip_pc (pc : Addr) (b : Bool) :
    (if b then pc + 4 else pc + 2 : Addr).toNat = (pc.toNat + if b = true then 4 else 2) % 4096 := by
  cases b <;> simp [BitVec.toNat_add]

/-- The events an unofficial instruction emits (40_decode_dispatch.md R86). -/
theorem State.logUnofficial_log (s : State) (w : Word) : (s.logUnofficial w).log = s.log ++ s.unofficialEvents w := by
  unfold State.logUnofficial State.unofficialEvents
  cases s.config.unofficialLog <;> simp [ErrorKind.code]

/-- It changes nothing but the log. -/
theorem State.logUnofficial_frame (s : State) (w : Word) :
    s.logUnofficial w = { s with log := (s.logUnofficial w).log } := by
  unfold State.logUnofficial
  cases s.config.unofficialLog <;> rfl

-- The key priority (45_timers_keypad.md R164).

/-- The lowest set bit: set, with none set below it. -/
theorem lowestSet_some {k : Keys} {n : Nat} :
    lowestSet k = some n ↔ n < 16 ∧ k.getLsbD n = true ∧ ∀ j < n, k.getLsbD j = false := by
  unfold lowestSet
  rw [List.find?_range_eq_some]
  simp only [List.mem_range, Bool.not_eq_true']
  constructor
  · rintro ⟨h1, h2, h3⟩; exact ⟨h2, h1, h3⟩
  · rintro ⟨h1, h2, h3⟩; exact ⟨h2, h1, h3⟩

/-- No lowest set bit exactly when no bit is set. -/
theorem lowestSet_none {k : Keys} : lowestSet k = none ↔ k = 0 := by
  unfold lowestSet
  rw [List.find?_eq_none]
  constructor
  · intro h
    apply BitVec.eq_of_getLsbD_eq
    intro j hj
    have := h j (List.mem_range.mpr hj)
    simpa using this
  · intro h j _
    subst h
    simp

-- Register blocks (43_memory_index.md R144, R145).

/-- Reading a register after loading a block of registers. -/
theorem State.reg_setRegs (bs : List Byte) : ∀ (s : State) (k : Nat) (y : RegNum), k + bs.length ≤ 16 →
    (s.setRegs k bs).reg y = if h : k ≤ y.toNat ∧ y.toNat < k + bs.length then bs[y.toNat - k] else s.reg y := by
  induction bs with
  | nil =>
    intro s k y _
    rw [dif_neg (by simp only [List.length_nil]; omega)]
    rfl
  | cons b rest ih =>
    intro s k y hk
    rw [List.length_cons] at hk
    unfold State.setRegs
    rw [ih _ _ _ (by omega)]
    have hmod : (BitVec.ofNat 4 k : RegNum).toNat = k := by rw [BitVec.toNat_ofNat]; exact Nat.mod_eq_of_lt (by omega)
    by_cases h1 : k + 1 ≤ y.toNat ∧ y.toNat < k + 1 + rest.length
    · rw [dif_pos h1, dif_pos (by simp only [List.length_cons]; omega)]
      obtain ⟨j, hj⟩ : ∃ j, y.toNat - k = j + 1 := ⟨y.toNat - k - 1, by omega⟩
      simp only [hj, List.getElem_cons_succ]
      congr 1
      omega
    · rw [dif_neg h1, State.reg_setReg]
      by_cases h2 : y = BitVec.ofNat 4 k
      · have hy : y.toNat = k := by rw [h2]; exact hmod
        rw [if_pos h2, dif_pos (by simp only [List.length_cons]; omega)]
        simp [hy]
      · have hy : y.toNat ≠ k := fun e => h2 (BitVec.eq_of_toNat_eq (by rw [e, hmod]))
        rw [if_neg h2, dif_neg (by simp only [List.length_cons]; omega)]

/-- Loading a block of registers changes nothing but the registers. -/
theorem State.setRegs_frame (bs : List Byte) : ∀ (s : State) (k : Nat), s.setRegs k bs = { s with v := (s.setRegs k bs).v } := by
  induction bs with
  | nil => intro s k; rfl
  | cons b rest ih => intro s k; unfold State.setRegs; rw [ih]; rfl

@[simp] theorem State.regsUpTo_length (s : State) (x : RegNum) : (s.regsUpTo x).length = x.toNat + 1 := by
  simp [State.regsUpTo]

theorem State.regsUpTo_get (s : State) (x : RegNum) {k : Nat} (hk : k ≤ x.toNat) :
    (s.regsUpTo x)[k]? = some (s.reg (BitVec.ofNat 4 k)) := by
  unfold State.regsUpTo
  rw [List.getElem?_map, List.getElem?_range (by omega)]
  rfl

theorem bcdDigits_length (b : Byte) : (bcdDigits b).length = 3 := rfl

-- Stores and loads through `I`.

/-- A store whose addresses are in range answers, with the bytes from `I` up and everything else as before. -/
theorem State.storeAtI_ok {s : State} {w : Word} {bs : List Byte} (hwf : s.mem.wf s.config.strictUninit = true)
    (hr : s.i.toNat + bs.length ≤ memSize) :
    ∃ m, s.storeAtI w bs = .next { s with mem := m }.advance ∧ m.wf s.config.strictUninit = true ∧
      ∀ b, m.cell s.config.strictUninit b =
        if s.i.toNat ≤ b ∧ b < s.i.toNat + bs.length then bs[b - s.i.toNat]? else s.cell b := by
  obtain ⟨m, hm⟩ := (Memory.writeBlock_isOk (strict := s.config.strictUninit) (m := s.mem)).mpr (.inr hr)
  obtain ⟨h1, h2⟩ := Memory.writeBlock_ok hwf hm
  exact ⟨m, by unfold State.storeAtI; rw [hm], h1, h2⟩

/-- A store with an address out of range raises AddressOutOfRange and stores nothing. -/
theorem State.storeAtI_error {s : State} {w : Word} {bs : List Byte} (hne : bs ≠ [])
    (hr : s.i.toNat + bs.length > memSize) : s.storeAtI w bs = .next (s.halted 8 w) := by
  unfold State.storeAtI
  cases h : s.mem.writeBlock s.config.strictUninit s.i.toNat bs with
  | ok m =>
    have := Memory.writeBlock_isOk.mp ⟨m, h⟩
    rcases this with h' | h'
    · exact absurd h' hne
    · omega
  | error k => rw [Memory.writeBlock_error h]; rfl

/-- What a store through `I` can answer: a raise, or a store. -/
theorem State.storeAtI_cases (s : State) (w : Word) (bs : List Byte) :
    s.storeAtI w bs = .next (s.halted 8 w) ∨
    ∃ m, s.mem.writeBlock s.config.strictUninit s.i.toNat bs = .ok m ∧
      s.storeAtI w bs = .next { s with mem := m }.advance := by
  unfold State.storeAtI
  cases h : s.mem.writeBlock s.config.strictUninit s.i.toNat bs with
  | ok m => exact .inr ⟨m, rfl, rfl⟩
  | error k => rw [Memory.writeBlock_error h]; exact .inl rfl

/-- Cells that can be read give a block read, byte by byte. -/
theorem State.readBlock_of_readable {s : State} {n : Nat} (h : s.Readable n) :
    ∃ bs, s.mem.readBlock s.config.strictUninit s.i.toNat n = .ok bs ∧ bs.length = n ∧
      ∀ k < n, s.cell (s.effective k) = bs[k]? := by
  cases hr : s.mem.readBlock s.config.strictUninit s.i.toNat n with
  | ok bs =>
    obtain ⟨hl, hc⟩ := Memory.readBlock_ok.mp hr
    exact ⟨bs, rfl, hl, fun k hk => (hc k hk).2⟩
  | error k =>
    exfalso
    obtain ⟨j, hj, _, herr⟩ := Memory.readBlock_error.mp hr
    obtain ⟨h1, b, h2⟩ := h j hj
    have : s.mem.read s.config.strictUninit (s.i.toNat + j) = .ok b := Memory.read_ok.mpr ⟨h1, h2⟩
    rw [this] at herr
    cases herr

/-- The first cell that cannot be read decides what a block read raises. -/
theorem State.readBlock_of_bad {s : State} {n : Nat} {code : BitVec 4} (h : s.FirstBadRead n code) :
    ∃ k, s.mem.readBlock s.config.strictUninit s.i.toNat n = .error k ∧ k.code = code := by
  obtain ⟨j, hj, hpre, hbad⟩ := h
  have hpre' : ∀ i < j, ∃ b, s.mem.read s.config.strictUninit (s.i.toNat + i) = .ok b := by
    intro i hi
    obtain ⟨h1, b, h2⟩ := hpre i hi
    exact ⟨b, Memory.read_ok.mpr ⟨h1, h2⟩⟩
  rcases hbad with ⟨h1, rfl⟩ | ⟨h1, h2, rfl⟩
  · exact ⟨_, Memory.readBlock_error.mpr ⟨j, hj, hpre', Memory.read_error.mpr (.inl ⟨h1, rfl⟩)⟩, rfl⟩
  · exact ⟨_, Memory.readBlock_error.mpr ⟨j, hj, hpre', Memory.read_error.mpr (.inr ⟨h1, h2, rfl⟩)⟩, rfl⟩

/-- A block read raises only the two memory errors. -/
theorem Memory.readBlock_error_kind {strict : Bool} {m : Memory} {a n : Nat} {k : ErrorKind}
    (h : m.readBlock strict a n = .error k) : k = .addressOutOfRange ∨ k = .uninitializedMemoryAccess := by
  obtain ⟨j, _, _, herr⟩ := Memory.readBlock_error.mp h
  rcases Memory.read_error.mp herr with ⟨_, rfl⟩ | ⟨_, _, rfl⟩
  · exact .inl rfl
  · exact .inr rfl

/-- What a load through `I` can answer: a raise, or the registers loaded. -/
theorem State.loadAtI_cases (s : State) (w : Word) (n : Nat) :
    (∃ k, (k = .addressOutOfRange ∨ k = .uninitializedMemoryAccess) ∧ s.loadAtI w n = raise k w s) ∨
    ∃ bs, s.mem.readBlock s.config.strictUninit s.i.toNat n = .ok bs ∧ s.loadAtI w n = .next (s.setRegs 0 bs).advance := by
  unfold State.loadAtI
  cases h : s.mem.readBlock s.config.strictUninit s.i.toNat n with
  | ok bs => exact .inr ⟨bs, rfl, rfl⟩
  | error k => exact .inl ⟨k, Memory.readBlock_error_kind h, rfl⟩

/-- Raising is the halted state of R173. -/
theorem raise_eq (k : ErrorKind) (w : Word) (s : State) : raise k w s = .next (s.halted k.code w) := rfl

end Sys2Proof.Machine
end

