-- ==== Sys2Proof/Laws/Exec.lean ====
section
/-! SUPPORT. What an instruction can do, said once: it raises a Fatal error and leaves everything else as it was, or it
completes and leaves alone what no instruction writes. -/

namespace Sys2Proof.Machine

/-- Drawing answers whenever the sprite's cells can be read, and keeps the canonical form. -/
theorem drawRows_of_readable {s : State} {n : Nat} (vx vy : Byte) (hwf : s.mem.wf s.config.strictUninit = true)
    (h : s.Readable n) :
    ∃ m c, drawRows s.config.strictUninit s.mem s.i.toNat (spritePos vx vy) 0 n false = .ok (m, c) ∧
      m.wf s.config.strictUninit = true := by
  have hc : ∀ k < n, s.i.toNat + (0 + k) ≤ 0xFFF ∧ ∃ b, s.mem.cell s.config.strictUninit (s.i.toNat + (0 + k)) = some b := by
    intro k hk
    rw [Nat.zero_add]
    exact h k hk
  obtain ⟨ms, c, row, cF, hrun, -, hwfs, -, -⟩ := drawRows_trace (coll := false) (spritePos_bx_lt vx vy) hwf hc
  exact ⟨_, _, hrun, hwfs n le_rfl⟩

/-- An XOR of a framebuffer byte that raises raises a memory error. -/
theorem xorByte_error {strict : Bool} {m : Memory} {a : Nat} {mask : Byte} {k : ErrorKind}
    (h : xorByte strict m a mask = .error k) : k = .addressOutOfRange ∨ k = .uninitializedMemoryAccess := by
  unfold xorByte at h
  split at h
  · next hr =>
    cases h
    rcases Memory.read_error.mp hr with ⟨_, rfl⟩ | ⟨_, _, rfl⟩
    · exact .inl rfl
    · exact .inr rfl
  · split at h
    · next hw =>
      cases h
      rw [Memory.write_eq] at hw
      split at hw
      · cases hw; exact .inl rfl
      · cases hw
    · cases h

/-- Drawing that raises raises a memory error. -/
theorem drawRows_error {strict : Bool} {p : SpritePos} {base n : Nat} : ∀ {m : Memory} {r : Nat} {coll : Bool} {k : ErrorKind},
    drawRows strict m base p r n coll = .error k → k = .addressOutOfRange ∨ k = .uninitializedMemoryAccess := by
  induction n with
  | zero => intro m r coll k h; cases h
  | succ n ih =>
    intro m r coll k h
    unfold drawRows at h
    split at h
    · next hr =>
      cases h
      rcases Memory.read_error.mp hr with ⟨_, rfl⟩ | ⟨_, _, rfl⟩
      · exact .inl rfl
      · exact .inr rfl
    · split at h
      · next hd =>
        cases h
        unfold drawRow at hd
        split at hd
        · next hx => cases hd; exact xorByte_error hx
        · split at hd
          · cases hd
          · split at hd
            · next hx => cases hd; exact xorByte_error hx
            · cases hd
      · exact ih h

/-- From `s` to `t` an instruction completed: the fields no instruction writes are as before. -/
abbrev Completed (s t : State) : Prop :=
  t.halt = s.halt ∧ t.faultCause = s.faultCause ∧ t.keypad = s.keypad ∧ t.prevKeypad = s.prevKeypad ∧
  t.config = s.config ∧ t.rewind = s.rewind ∧ t.keypadIn = s.keypadIn ∧ t.pause = s.pause ∧ t.loadOpen = s.loadOpen ∧
  t.pending = s.pending ∧ ∃ new, t.log = s.log ++ new

/-- The kinds an instruction raises as Fatal. -/
abbrev RaisedKind (k : ErrorKind) : Prop :=
  k = .bannedInstruction ∨ k = .extendedUnsupported ∨ k = .stackOverflow ∨ k = .stackUnderflow ∨
  k = .uninitializedMemoryAccess ∨ k = .addressOutOfRange

/-- What `exec` can answer. -/
theorem exec_cases (i : Instr) (s : State) :
    (∃ k, RaisedKind k ∧ exec i s = raise k (encode i) s) ∨
    (∃ t, exec i s = .next t ∧ Completed s t) ∨
    (s.config.stackFaultFatal = false ∧ exec i s = .refused .stackWarningPolicy) := by
  have done : ∀ t, Completed s t → ∀ r : Result, r = .next t →
      (∃ k, RaisedKind k ∧ r = raise k (encode i) s) ∨ (∃ t, r = .next t ∧ Completed s t) ∨
      (s.config.stackFaultFatal = false ∧ r = .refused .stackWarningPolicy) :=
    fun t h r e => .inr (.inl ⟨t, e, h⟩)
  cases i with
  | sys nnn => exact done _ (by simp [Completed]) _ rfl
  | call nnn =>
    simp only [exec, execCall, raiseStackFault]
    split
    · split
      · exact .inl ⟨.stackOverflow, by simp [RaisedKind], rfl⟩
      · next h => exact .inr (.inr ⟨by simpa using h, rfl⟩)
    · exact .inr (.inl ⟨_, rfl, by simp [Completed]⟩)
  | ret =>
    simp only [exec, execRet, raiseStackFault]
    split
    · split
      · exact .inl ⟨.stackUnderflow, by simp [RaisedKind], rfl⟩
      · next h => exact .inr (.inr ⟨by simpa using h, rfl⟩)
    · exact .inr (.inl ⟨_, rfl, by simp [Completed]⟩)
  | ldBVx x =>
    rcases s.storeAtI_cases (encode (.ldBVx x)) (bcdDigits (s.reg x)) with h | ⟨m, _, h⟩
    · exact .inl ⟨.addressOutOfRange, by simp [RaisedKind], h⟩
    · exact done _ (by simp [Completed]) _ h
  | ldIndVx x =>
    rcases s.storeAtI_cases (encode (.ldIndVx x)) (s.regsUpTo x) with h | ⟨m, _, h⟩
    · exact .inl ⟨.addressOutOfRange, by simp [RaisedKind], h⟩
    · exact done _ (by simp [Completed]) _ h
  | ldVxInd x =>
    rcases s.loadAtI_cases (encode (.ldVxInd x)) (x.toNat + 1) with ⟨k, hk, h⟩ | ⟨bs, _, h⟩
    · exact .inl ⟨k, by rcases hk with rfl | rfl <;> simp [RaisedKind], h⟩
    · exact done _ (by simp [Completed]) _ h
  | drw x y n =>
    simp only [exec, execDrw]
    split
    · next k hk =>
      exact .inl ⟨k, by rcases Memory.readBlock_error_kind hk with rfl | rfl <;> simp [RaisedKind], rfl⟩
    · split
      · next k hk =>
        exact .inl ⟨k, by rcases drawRows_error hk with rfl | rfl <;> simp [RaisedKind], rfl⟩
      · exact .inr (.inl ⟨_, rfl, by simp [Completed]⟩)
  | ldVxK x =>
    simp only [exec, execLdVxK, keyWaitService]
    split
    · split
      · exact .inr (.inl ⟨_, rfl, by simp [Completed]⟩)
      · exact .inr (.inl ⟨_, rfl, by simp [Completed]⟩)
    · exact .inr (.inl ⟨_, rfl, by simp [Completed]⟩)
  | addIVx x =>
    simp only [exec, execAddIVx]
    split
    · exact .inr (.inl ⟨_, rfl, by simp [Completed]⟩)
    · exact .inr (.inl ⟨_, rfl, by simp [Completed]⟩)
  | xorReg x y => exact done _ (by simp [Completed, State.logUnofficial_log]) _ rfl
  | shrReg x y => exact done _ (by simp [Completed, State.logUnofficial_log]) _ rfl
  | subnReg x y => exact done _ (by simp [Completed, State.logUnofficial_log]) _ rfl
  | shlReg x y => exact done _ (by simp [Completed, State.logUnofficial_log]) _ rfl
  | ext00C n => exact .inl ⟨.extendedUnsupported, by simp [RaisedKind], rfl⟩
  | ext00FB => exact .inl ⟨.extendedUnsupported, by simp [RaisedKind], rfl⟩
  | ext00FC => exact .inl ⟨.extendedUnsupported, by simp [RaisedKind], rfl⟩
  | ext00FD => exact .inl ⟨.extendedUnsupported, by simp [RaisedKind], rfl⟩
  | ext00FE => exact .inl ⟨.extendedUnsupported, by simp [RaisedKind], rfl⟩
  | ext00FF => exact .inl ⟨.extendedUnsupported, by simp [RaisedKind], rfl⟩
  | extDXY0 x y => exact .inl ⟨.extendedUnsupported, by simp [RaisedKind], rfl⟩
  | extFX30 x => exact .inl ⟨.extendedUnsupported, by simp [RaisedKind], rfl⟩
  | extFX75 x => exact .inl ⟨.extendedUnsupported, by simp [RaisedKind], rfl⟩
  | extFX85 x => exact .inl ⟨.extendedUnsupported, by simp [RaisedKind], rfl⟩
  | ban6F kk => exact .inl ⟨.bannedInstruction, by simp [RaisedKind], rfl⟩
  | ban7F kk => exact .inl ⟨.bannedInstruction, by simp [RaisedKind], rfl⟩
  | ban8FY0 y => exact .inl ⟨.bannedInstruction, by simp [RaisedKind], rfl⟩
  | banCF kk => exact .inl ⟨.bannedInstruction, by simp [RaisedKind], rfl⟩
  | banFF07 => exact .inl ⟨.bannedInstruction, by simp [RaisedKind], rfl⟩
  | banFF0A => exact .inl ⟨.bannedInstruction, by simp [RaisedKind], rfl⟩
  | banFF65 => exact .inl ⟨.bannedInstruction, by simp [RaisedKind], rfl⟩
  | ban8FY4 y => exact .inl ⟨.bannedInstruction, by simp [RaisedKind], rfl⟩
  | ban8FY6 y => exact .inl ⟨.bannedInstruction, by simp [RaisedKind], rfl⟩
  | ban8FYE y => exact .inl ⟨.bannedInstruction, by simp [RaisedKind], rfl⟩
  | _ => exact done _ (by simp [Completed]) _ rfl

end Sys2Proof.Machine
end

