-- ==== Sys2Proof/Laws/PerInstr.lean ====
section
/-! SUPPORT. The family RowMatch: the word of an instruction is of its row's template in the opcode table, one lemma per
constructor (30_encoding.md R64 to R67). -/

namespace Sys2Proof.Laws.RowMatch

/-- An instruction's word, ANDed with its row's mask, is its row's match. -/
def Statement (i : Instr) : Prop := encode i &&& i.template.mask = i.template.value

theorem cls : Statement .cls := rfl
theorem ret : Statement .ret := rfl
theorem sys (nnn : Addr) : Statement (.sys nnn) := formatA_covered 0x0 nnn
theorem jpAddr (nnn : Addr) : Statement (.jpAddr nnn) := formatA_covered 0x1 nnn
theorem call (nnn : Addr) : Statement (.call nnn) := formatA_covered 0x2 nnn
theorem seByte (x : RegNum) (kk : Byte) : Statement (.seByte x kk) := formatRB_covered 0x3 x kk
theorem sneByte (x : RegNum) (kk : Byte) : Statement (.sneByte x kk) := formatRB_covered 0x4 x kk
theorem seReg (x y : RegNum) : Statement (.seReg x y) := formatRR_covered_n 0x5 x y 0x0
theorem ldByte (x : RegNum) (kk : Byte) : Statement (.ldByte x kk) := formatRB_covered 0x6 x kk
theorem addByte (x : RegNum) (kk : Byte) : Statement (.addByte x kk) := formatRB_covered 0x7 x kk
theorem ldReg (x y : RegNum) : Statement (.ldReg x y) := formatRR_covered_n 0x8 x y 0x0
theorem orReg (x y : RegNum) : Statement (.orReg x y) := formatRR_covered_n 0x8 x y 0x1
theorem andReg (x y : RegNum) : Statement (.andReg x y) := formatRR_covered_n 0x8 x y 0x2
theorem xorReg (x y : RegNum) : Statement (.xorReg x y) := formatRR_covered_n 0x8 x y 0x3
theorem addReg (x y : RegNum) : Statement (.addReg x y) := formatRR_covered_n 0x8 x y 0x4
theorem subReg (x y : RegNum) : Statement (.subReg x y) := formatRR_covered_n 0x8 x y 0x5
theorem shrReg (x y : RegNum) : Statement (.shrReg x y) := formatRR_covered_n 0x8 x y 0x6
theorem subnReg (x y : RegNum) : Statement (.subnReg x y) := formatRR_covered_n 0x8 x y 0x7
theorem shlReg (x y : RegNum) : Statement (.shlReg x y) := formatRR_covered_n 0x8 x y 0xE
theorem sneReg (x y : RegNum) : Statement (.sneReg x y) := formatRR_covered_n 0x9 x y 0x0
theorem ldIAddr (nnn : Addr) : Statement (.ldIAddr nnn) := formatA_covered 0xA nnn
theorem jpV0 (nnn : Addr) : Statement (.jpV0 nnn) := formatA_covered 0xB nnn
theorem rnd (x : RegNum) (kk : Byte) : Statement (.rnd x kk) := formatRB_covered 0xC x kk
theorem drw (x y : RegNum) (n : Nibble) : Statement (.drw x y n) := formatRR_covered 0xD x y n
theorem skp (x : RegNum) : Statement (.skp x) := formatRB_covered_kk 0xE x 0x9E
theorem sknp (x : RegNum) : Statement (.sknp x) := formatRB_covered_kk 0xE x 0xA1
theorem ldVxDt (x : RegNum) : Statement (.ldVxDt x) := formatRB_covered_kk 0xF x 0x07
theorem ldVxK (x : RegNum) : Statement (.ldVxK x) := formatRB_covered_kk 0xF x 0x0A
theorem ldDtVx (x : RegNum) : Statement (.ldDtVx x) := formatRB_covered_kk 0xF x 0x15
theorem ldStVx (x : RegNum) : Statement (.ldStVx x) := formatRB_covered_kk 0xF x 0x18
theorem addIVx (x : RegNum) : Statement (.addIVx x) := formatRB_covered_kk 0xF x 0x1E
theorem ldFVx (x : RegNum) : Statement (.ldFVx x) := formatRB_covered_kk 0xF x 0x29
theorem ldBVx (x : RegNum) : Statement (.ldBVx x) := formatRB_covered_kk 0xF x 0x33
theorem ldIndVx (x : RegNum) : Statement (.ldIndVx x) := formatRB_covered_kk 0xF x 0x55
theorem ldVxInd (x : RegNum) : Statement (.ldVxInd x) := formatRB_covered_kk 0xF x 0x65
theorem ext00C (n : Nibble) : Statement (.ext00C n) := formatRR_covered_xy 0x0 0x0 0xC n
theorem ext00FB : Statement .ext00FB := rfl
theorem ext00FC : Statement .ext00FC := rfl
theorem ext00FD : Statement .ext00FD := rfl
theorem ext00FE : Statement .ext00FE := rfl
theorem ext00FF : Statement .ext00FF := rfl
theorem extDXY0 (x y : RegNum) : Statement (.extDXY0 x y) := formatRR_covered_n 0xD x y 0x0
theorem extFX30 (x : RegNum) : Statement (.extFX30 x) := formatRB_covered_kk 0xF x 0x30
theorem extFX75 (x : RegNum) : Statement (.extFX75 x) := formatRB_covered_kk 0xF x 0x75
theorem extFX85 (x : RegNum) : Statement (.extFX85 x) := formatRB_covered_kk 0xF x 0x85
theorem ban6F (kk : Byte) : Statement (.ban6F kk) := formatRB_covered_x 0x6 0xF kk
theorem ban7F (kk : Byte) : Statement (.ban7F kk) := formatRB_covered_x 0x7 0xF kk
theorem ban8FY0 (y : RegNum) : Statement (.ban8FY0 y) := formatRR_covered_xn 0x8 0xF y 0x0
theorem banCF (kk : Byte) : Statement (.banCF kk) := formatRB_covered_x 0xC 0xF kk
theorem banFF07 : Statement .banFF07 := rfl
theorem banFF0A : Statement .banFF0A := rfl
theorem banFF65 : Statement .banFF65 := rfl
theorem ban8FY4 (y : RegNum) : Statement (.ban8FY4 y) := formatRR_covered_xn 0x8 0xF y 0x4
theorem ban8FY6 (y : RegNum) : Statement (.ban8FY6 y) := formatRR_covered_xn 0x8 0xF y 0x6
theorem ban8FYE (y : RegNum) : Statement (.ban8FYE y) := formatRR_covered_xn 0x8 0xF y 0xE

/-- Every instruction's word is of its row's template. -/
theorem all (i : Instr) : Statement i := by
  cases i with
  | cls => exact cls
  | ret => exact ret
  | sys nnn => exact sys nnn
  | jpAddr nnn => exact jpAddr nnn
  | call nnn => exact call nnn
  | seByte x kk => exact seByte x kk
  | sneByte x kk => exact sneByte x kk
  | seReg x y => exact seReg x y
  | ldByte x kk => exact ldByte x kk
  | addByte x kk => exact addByte x kk
  | ldReg x y => exact ldReg x y
  | orReg x y => exact orReg x y
  | andReg x y => exact andReg x y
  | xorReg x y => exact xorReg x y
  | addReg x y => exact addReg x y
  | subReg x y => exact subReg x y
  | shrReg x y => exact shrReg x y
  | subnReg x y => exact subnReg x y
  | shlReg x y => exact shlReg x y
  | sneReg x y => exact sneReg x y
  | ldIAddr nnn => exact ldIAddr nnn
  | jpV0 nnn => exact jpV0 nnn
  | rnd x kk => exact rnd x kk
  | drw x y n => exact drw x y n
  | skp x => exact skp x
  | sknp x => exact sknp x
  | ldVxDt x => exact ldVxDt x
  | ldVxK x => exact ldVxK x
  | ldDtVx x => exact ldDtVx x
  | ldStVx x => exact ldStVx x
  | addIVx x => exact addIVx x
  | ldFVx x => exact ldFVx x
  | ldBVx x => exact ldBVx x
  | ldIndVx x => exact ldIndVx x
  | ldVxInd x => exact ldVxInd x
  | ext00C n => exact ext00C n
  | ext00FB => exact ext00FB
  | ext00FC => exact ext00FC
  | ext00FD => exact ext00FD
  | ext00FE => exact ext00FE
  | ext00FF => exact ext00FF
  | extDXY0 x y => exact extDXY0 x y
  | extFX30 x => exact extFX30 x
  | extFX75 x => exact extFX75 x
  | extFX85 x => exact extFX85 x
  | ban6F kk => exact ban6F kk
  | ban7F kk => exact ban7F kk
  | ban8FY0 y => exact ban8FY0 y
  | banCF kk => exact banCF kk
  | banFF07 => exact banFF07
  | banFF0A => exact banFF0A
  | banFF65 => exact banFF65
  | ban8FY4 y => exact ban8FY4 y
  | ban8FY6 y => exact ban8FY6 y
  | ban8FYE y => exact ban8FYE y

end Sys2Proof.Laws.RowMatch
end

