-- ==== Sys2Proof/Laws/Tick.lean ====
section
/-! SUPPORT. What the fetch and one `cpu_tick` answer, said once: halted, a failing fetch, a word that is fetched. -/

namespace Sys2Proof.Machine

/-- The fetch answers exactly when both cells are in range and set: the high byte at the lower address (20_memory.md R45). -/
theorem State.fetch_ok {s : State} {w : Word} :
    s.fetch = .ok w ↔ s.pc.toNat + 1 ≤ 0xFFF ∧
      ∃ hi lo : Byte, s.cell s.pc.toNat = some hi ∧ s.cell (s.pc.toNat + 1) = some lo ∧ w = hi ++ lo := by
  unfold State.fetch Memory.readWord
  constructor
  · intro h
    split at h
    · cases h
    · next hi hhi =>
      split at h
      · cases h
      · next lo hlo =>
        cases h
        exact ⟨(Memory.read_ok.mp hlo).1, hi, lo, (Memory.read_ok.mp hhi).2, (Memory.read_ok.mp hlo).2, rfl⟩
  · rintro ⟨hr, hi, lo, h1, h2, rfl⟩
    rw [Memory.read_ok.mpr ⟨by omega, h1⟩, Memory.read_ok.mpr ⟨hr, h2⟩]
    rfl

/-- A failing fetch raises a memory error. -/
theorem State.fetch_error_kind {s : State} {k : ErrorKind} (h : s.fetch = .error k) :
    k = .addressOutOfRange ∨ k = .uninitializedMemoryAccess := by
  unfold State.fetch Memory.readWord at h
  split at h
  · next e => cases h; rcases Memory.read_error.mp e with ⟨_, rfl⟩ | ⟨_, _, rfl⟩ <;> simp
  · split at h
    · next e => cases h; rcases Memory.read_error.mp e with ⟨_, rfl⟩ | ⟨_, _, rfl⟩ <;> simp
    · cases h

/-- With nothing pending and no pause a step is a `cpu_tick`. -/
theorem step_eq_cpuTick {s : State} (h1 : s.pending = []) (h2 : s.pause = false) : step s = cpuTick s := by
  have e : (true && !s.pause) = true := by rw [h2]; rfl
  unfold step nextStep
  rw [h1]
  unfold runStrobes
  simp only [e, if_true]
  cases cpuTick s <;> rfl

/-- A halted tick. -/
theorem cpuTick_halted {s : State} (h : s.halt = true) : cpuTick s = .next s.sample.reReport := by
  unfold cpuTick tickSampled
  rw [if_pos (show s.sample.halt = true from h)]

/-- A tick whose fetch fails. -/
theorem cpuTick_fetch_error {s : State} {k : ErrorKind} (h : s.halt = false) (hf : s.fetch = .error k) :
    cpuTick s = .next (s.sample.halted k.code 0) := by
  have hh : ¬ s.sample.halt = true := by show ¬ s.halt = true; rw [h]; simp
  unfold cpuTick tickSampled
  rw [if_neg hh, show s.sample.fetch = .error k from hf]
  rfl

/-- A tick that fetches the word `w`. -/
theorem cpuTick_fetched {s : State} {w : Word} (h : s.halt = false) (hf : s.fetch = .ok w) :
    cpuTick s = endTick s.pc (decodedRecord w (decode s.config w))
      (if s.waitingForKey then dispatchWaiting (decode s.config w) s.sample
       else dispatch (decode s.config w) s.sample) := by
  have hh : ¬ s.sample.halt = true := by show ¬ s.halt = true; rw [h]; simp
  unfold cpuTick tickSampled
  rw [if_neg hh, show s.sample.fetch = .ok w from hf]
  rfl

/-- The end of a tick writes `prev_keypad` and the rewind ring alone. -/
theorem State.finish_frame (s : State) (p : Addr) (d : DecodedInstruction) :
    s.finish p d = { s with prevKeypad := s.keypad, rewind := (s.finish p d).rewind } := by
  unfold State.finish
  dsimp only
  split <;> rfl

-- The timers (60_exceptions.md R180, R181, R184).

theorem countdown_toNat (b : Byte) : (countdown b).toNat = b.toNat - 1 := by
  revert b; decide

/-- The timer strobes of one issue: each counts its own timer, and nothing else changes. -/
theorem State.timerTicks_frame (s : State) (st dt : Bool) :
    s.timerTicks st dt =
      { s with st := if st then countdown s.st else s.st, dt := if dt then countdown s.dt else s.dt } := by
  cases st <;> cases dt <;> rfl

end Sys2Proof.Machine
end

