-- ==== Sys2Proof/Tests/Slice0.lean ====
section
/-! SUPPORT. The model's own tests: ill-formed terms refused, words decoded, single steps against the vectors of
95_test_vectors.md (named by part and letter), and a witness for the hypotheses of every statement. -/

namespace Sys2Proof.Tests

open Sys2Proof Sys2Proof.Machine

-- WellFormed refuses what its rows exclude (30_encoding.md R65, R69).

theorem test_wf_sys_cls_word : WellFormed Config.default (.sys 0x0E0) = false := by decide
theorem test_wf_sys_ret_word : WellFormed Config.default (.sys 0x0EE) = false := by decide
theorem test_wf_drw_no_rows : WellFormed Config.default (.drw 0x1 0x2 0x0) = false := by decide
theorem test_wf_valid_row_in_banned : WellFormed Config.default (.ldByte 0xF 0x01) = false := by decide
theorem test_wf_valid_row_in_extended : WellFormed Config.default (.sys 0x0FD) = false := by decide
theorem test_wf_banned_row_not_in_set : WellFormed { Config.default with banned := [] } .banFF07 = false := by
  decide
theorem test_wf_extended_row_not_in_set : WellFormed { Config.default with extended := [] } .ext00FD = false := by
  decide
theorem test_wf_banned_row_in_extended :
    WellFormed { Config.default with extended := [⟨0xFFFF, 0xFF07⟩] } .banFF07 = false := by decide
theorem test_wf_accepts : (WellFormed Config.default (.ldByte 0xA 0x2C) && WellFormed Config.default .ext00FD &&
    WellFormed Config.default (.ban6F 0x12) && WellFormed Config.default (.sys 0xFFF)) = true := by decide

-- One word of each row, written out from 30_encoding.md R65, R66, R67 (vectors 2.1).

/-- Whether the decoder reads `i` from the word `w`, under the default configuration. -/
def reads (w : Nat) (i : Instr) : Bool := decodeTableWord 16 w == some i

theorem test_decode_family0 : (reads 0x00E0 .cls && reads 0x00EE .ret && reads 0x0123 (.sys 0x123) && reads 0x0000 (.sys 0) &&
    reads 0x00E1 (.sys 0x0E1) && reads 0x0FFF (.sys 0xFFF)) = true := by decide
theorem test_decode_control : (reads 0x1208 (.jpAddr 0x208) && reads 0x2300 (.call 0x300) && reads 0xB1FE (.jpV0 0x1FE) &&
    reads 0x3A05 (.seByte 0xA 0x05) && reads 0x4B7F (.sneByte 0xB 0x7F) && reads 0x5120 (.seReg 0x1 0x2) &&
    reads 0x9340 (.sneReg 0x3 0x4)) = true := by decide
theorem test_decode_arithmetic : (reads 0x6A2C (.ldByte 0xA 0x2C) && reads 0x70FF (.addByte 0x0 0xFF) &&
    reads 0x8120 (.ldReg 0x1 0x2) && reads 0x8F11 (.orReg 0xF 0x1) && reads 0x8122 (.andReg 0x1 0x2) &&
    reads 0x8123 (.xorReg 0x1 0x2) && reads 0x8124 (.addReg 0x1 0x2) && reads 0x8F15 (.subReg 0xF 0x1) &&
    reads 0x8E16 (.shrReg 0xE 0x1) && reads 0x8F17 (.subnReg 0xF 0x1) && reads 0x812E (.shlReg 0x1 0x2) &&
    reads 0xC10F (.rnd 0x1 0x0F)) = true := by decide
theorem test_decode_index_display : (reads 0xA300 (.ldIAddr 0x300) && reads 0xF01E (.addIVx 0x0) &&
    reads 0xFF29 (.ldFVx 0xF) && reads 0xFF33 (.ldBVx 0xF) && reads 0xFF55 (.ldIndVx 0xF) && reads 0xF265 (.ldVxInd 0x2) &&
    reads 0xD12F (.drw 0x1 0x2 0xF) && reads 0xD121 (.drw 0x1 0x2 0x1)) = true := by decide
theorem test_decode_timers_keypad : (reads 0xF407 (.ldVxDt 0x4) && reads 0xF30A (.ldVxK 0x3) && reads 0xFF15 (.ldDtVx 0xF) &&
    reads 0xFF18 (.ldStVx 0xF) && reads 0xE59E (.skp 0x5) && reads 0xE0A1 (.sknp 0x0)) = true := by decide
theorem test_decode_extended : (reads 0x00C0 (.ext00C 0x0) && reads 0x00CF (.ext00C 0xF) && reads 0x00FB .ext00FB &&
    reads 0x00FC .ext00FC && reads 0x00FD .ext00FD && reads 0x00FE .ext00FE && reads 0x00FF .ext00FF &&
    reads 0xD120 (.extDXY0 0x1 0x2) && reads 0xF030 (.extFX30 0x0) && reads 0xFA75 (.extFX75 0xA) &&
    reads 0xF385 (.extFX85 0x3)) = true := by decide
theorem test_decode_banned : (reads 0x6F00 (.ban6F 0x00) && reads 0x7FFF (.ban7F 0xFF) && reads 0x8F10 (.ban8FY0 0x1) &&
    reads 0xCF0F (.banCF 0x0F) && reads 0xFF07 .banFF07 && reads 0xFF0A .banFF0A && reads 0xFF65 .banFF65 &&
    reads 0x8F14 (.ban8FY4 0x1) && reads 0x8F16 (.ban8FY6 0x1) && reads 0x8F1E (.ban8FYE 0x1)) = true := by
  decide
theorem test_decode_unclassified : ([0x5121, 0x9121, 0x8128, 0x812F, 0xE100, 0xE19F, 0xF100, 0xF1FF, 0xFFFF].all
    (fun w => decodeTableWord 16 w == none)) = true := by decide

-- Single steps. `at200 s w` is `s` with the word `w` at its pc.

/-- The answer is a next state with the property `p`. -/
def nextIs (r : Result) (p : State → Bool) : Bool :=
  match r with
  | .next t => p t
  | .fault _ => false
  | .refused _ => false

/-- The state after reset with the given registers. -/
def withRegs (vs : List (RegNum × Byte)) : State := vs.foldl (fun s p => s.setReg p.1 p.2) State.reset

/-- A configuration changed, the rest of the state as it is. -/
def withConfig (s : State) (c : Config) : State := { s with config := c }

/-- The legacy shift mode. -/
def legacy : Config := { Config.default with shiftMode := .legacy }

/-- The strict memory mode. -/
def strict : Config := { Config.default with strictUninit := true }

/-- One step of `s` with the word `w` placed at its pc. -/
def run (s : State) (w : Nat) : Result := step (s.withFetchWord 16 w)

/-- `M[a]` in a state. -/
def byteIs (t : State) (a : Nat) (b : Byte) : Bool := t.cell a == some b

/-- `s` with one cell written. -/
def poke (s : State) (a : Nat) (b : Byte) : State := { s with mem := s.mem.set s.config.strictUninit a b }

-- 2.2

theorem test_ldByte : nextIs (run State.reset 0x6A2C) (fun t => t.reg 0xA == 0x2C && t.pc == 0x202) = true := by
  decide
theorem test_ldReg : nextIs (run (withRegs [(2, 0x07)]) 0x8120) (fun t => t.reg 1 == 0x07) = true := by decide
theorem test_addByte_wraps : nextIs (run (withRegs [(0, 0xFF), (0xF, 0x01)]) 0x7001)
    (fun t => t.reg 0 == 0x00 && t.reg 0xF == 0x01) = true := by decide
theorem test_or : nextIs (run (withRegs [(1, 0x0C), (2, 0x0A)]) 0x8121) (fun t => t.reg 1 == 0x0E) = true := by decide
theorem test_and : nextIs (run (withRegs [(1, 0x0C), (2, 0x0A)]) 0x8122) (fun t => t.reg 1 == 0x08) = true := by decide
theorem test_xor : nextIs (run (withRegs [(1, 0xF0), (2, 0xFF)]) 0x8123) (fun t => t.reg 1 == 0x0F) = true := by decide
theorem test_addReg_255 : nextIs (run (withRegs [(0, 0xF0), (1, 0x0F)]) 0x8014)
    (fun t => t.reg 0 == 0xFF && t.reg 0xF == 0x00) = true := by decide
theorem test_addReg_old_flag : nextIs (run (withRegs [(0, 0x10), (0xF, 0x01)]) 0x80F4)
    (fun t => t.reg 0 == 0x11 && t.reg 0xF == 0x00) = true := by decide
theorem test_sub_borrow : nextIs (run (withRegs [(0, 0x03), (1, 0x05)]) 0x8015)
    (fun t => t.reg 0 == 0xFE && t.reg 0xF == 0x00) = true := by decide
theorem test_sub_flag_last : nextIs (run (withRegs [(0xF, 0x09), (1, 0x05)]) 0x8F15) (fun t => t.reg 0xF == 0x01) = true := by
  decide
theorem test_subn : nextIs (run (withRegs [(0, 0x03), (1, 0x05)]) 0x8017)
    (fun t => t.reg 0 == 0x02 && t.reg 0xF == 0x01) = true := by decide
theorem test_subn_flag_last : nextIs (run (withRegs [(0xF, 0x09), (1, 0x05)]) 0x8F17) (fun t => t.reg 0xF == 0x00) = true := by
  decide
theorem test_shr_modern : nextIs (run (withRegs [(0, 0x05), (1, 0x04)]) 0x8016)
    (fun t => t.reg 0 == 0x02 && t.reg 0xF == 0x01 && t.reg 1 == 0x04) = true := by decide
theorem test_shr_legacy : nextIs (run (withConfig (withRegs [(0, 0x05), (1, 0x04)]) legacy) 0x8016)
    (fun t => t.reg 0 == 0x02 && t.reg 0xF == 0x00 && t.reg 1 == 0x04) = true := by decide
theorem test_shl_modern : nextIs (run (withRegs [(0, 0x81), (1, 0x40)]) 0x801E)
    (fun t => t.reg 0 == 0x02 && t.reg 0xF == 0x01) = true := by decide
theorem test_shl_legacy : nextIs (run (withConfig (withRegs [(0, 0x81), (1, 0x40)]) legacy) 0x801E)
    (fun t => t.reg 0 == 0x80 && t.reg 0xF == 0x00 && t.reg 1 == 0x40) = true := by decide

/-- Vector ab: a mask of 0 gives 0, whatever byte is drawn. -/
theorem test_rnd_zero_mask (b : Byte) : b &&& 0 = 0 := BitVec.and_zero

-- 2.3

theorem test_sys : nextIs (run State.reset 0x0123) (fun t => t.pc == 0x202 &&
    t.log == [.cpu .warning 9 0x200 0x0123]) = true := by decide
theorem test_jp_self : nextIs (run (State.reset.goto 0x208) 0x1208) (fun t => t.pc == 0x208 && t.spinning) = true := by
  decide
theorem test_jp_odd : nextIs (run State.reset 0x1201) (fun t => t.pc == 0x201 && !t.spinning) = true := by decide
theorem test_jpV0_wraps : nextIs (run (withRegs [(0, 0xFF)]) 0xBFFF) (fun t => t.pc == 0x0FE) = true := by decide
theorem test_jpV0_self : nextIs (run (withRegs [(0, 0x02)]) 0xB1FE) (fun t => t.pc == 0x200 && t.spinning) = true := by
  decide
theorem test_call_wraps : nextIs (run (State.reset.goto 0xFFE) 0x2000)
    (fun t => t.pc == 0x000 && t.sp == 1 && t.validStack == [0x000]) = true := by decide
theorem test_call_overflow : nextIs (run { State.reset with sp := 12 } 0x2200)
    (fun t => t.halt && t.faultCause == 4 && t.sp == 12 && t.pc == 0x200) = true := by decide
theorem test_ret : nextIs (run ((State.reset.push 0x202).goto 0x300) 0x00EE)
    (fun t => t.pc == 0x202 && t.sp == 0 && t.stackCell 0 == 0x202) = true := by decide
theorem test_ret_underflow : nextIs (run State.reset 0x00EE)
    (fun t => t.halt && t.faultCause == 5 && t.pc == 0x200 && t.sp == 0) = true := by decide
theorem test_seByte : nextIs (run (State.reset.goto 0x208) 0x3000) (fun t => t.pc == 0x20C) = true := by decide
theorem test_seByte_wraps : nextIs (run (State.reset.goto 0xFFE) 0x3000) (fun t => t.pc == 0x002) = true := by decide
theorem test_sneByte : nextIs (run (withRegs [(0, 0x05)]) 0x4005) (fun t => t.pc == 0x202) = true := by decide
theorem test_seReg : nextIs (run (withRegs [(1, 0x09), (2, 0x09)]) 0x5120) (fun t => t.pc == 0x204) = true := by decide
theorem test_sneReg : nextIs (run (withRegs [(1, 0x01), (2, 0x02)]) 0x9120) (fun t => t.pc == 0x204) = true := by decide

-- 2.4

/-- The state after reset with the given `I` and registers. -/
def withI (i : Addr) (vs : List (RegNum × Byte)) : State := { withRegs vs with i := i }

theorem test_ldIAddr : nextIs (run State.reset 0xA300) (fun t => t.i == 0x300) = true := by decide
theorem test_addI_off : nextIs (run (withI 0xFFE [(0, 0x05), (0xF, 0x07)]) 0xF01E)
    (fun t => t.i == 0x003 && t.reg 0xF == 0x07) = true := by decide
theorem test_addI_on : nextIs (run (withConfig (withI 0x003 [(0, 0x05), (0xF, 0x01)]) { Config.default with addIVf := true })
    0xF01E) (fun t => t.i == 0x008 && t.reg 0xF == 0x00) = true := by decide
theorem test_ldF_low_nibble : nextIs (run (withRegs [(0, 0x1F)]) 0xF029) (fun t => t.i == 0x09B) = true := by decide
theorem test_bcd_last_legal : nextIs (run (withI 0xFFD [(0, 0xFF)]) 0xF033)
    (fun t => byteIs t 0xFFD 2 && byteIs t 0xFFE 5 && byteIs t 0xFFF 5 && t.i == 0xFFD) = true := by decide
theorem test_bcd_out_of_range : nextIs (run (withI 0xFFE [(0, 0xFF)]) 0xF033)
    (fun t => t.faultCause == 8 && byteIs t 0xFFE 0 && byteIs t 0xFFF 0 && t.pc == 0x200) = true := by decide
theorem test_store_block : nextIs (run (withI 0x400 [(0, 1), (1, 2), (2, 3), (3, 4)]) 0xF255)
    (fun t => byteIs t 0x400 1 && byteIs t 0x401 2 && byteIs t 0x402 3 && byteIs t 0x403 0 && t.i == 0x400) = true := by
  decide
theorem test_store_block_out_of_range : nextIs (run (withI 0xFFF [(0, 1), (1, 2)]) 0xF155)
    (fun t => t.faultCause == 8 && byteIs t 0xFFF 0) = true := by decide
theorem test_load_block : nextIs (run (poke (poke (withI 0x300 []) 0x300 2) 0x301 5) 0xF165)
    (fun t => t.reg 0 == 2 && t.reg 1 == 5 && t.i == 0x300) = true := by decide
theorem test_load_block_unset : nextIs (run (poke (withConfig (withI 0x300 []) strict) 0x300 2) 0xF265)
    (fun t => t.faultCause == 6 && t.reg 0 == 0 && t.pc == 0x200) = true := by decide

-- 2.5

theorem test_ldDtVx : nextIs (run (withRegs [(3, 0x02)]) 0xF315) (fun t => t.dt == 0x02) = true := by decide
theorem test_ldVxDt : nextIs (run { State.reset with dt := 2 } 0xF407) (fun t => t.reg 4 == 2 && t.dt == 2) = true := by
  decide
theorem test_ldStVx : nextIs (run (withRegs [(0, 0x1E)]) 0xF018) (fun t => t.st == 0x1E && t.soundOn) = true := by
  decide
theorem test_cpu_before_dt : nextIs (step { (withRegs [(3, 0x02)]).withFetchWord 16 0xF315 with
    dt := 9, pending := [.strobes true false true] }) (fun t => t.dt == 1) = true := by decide
theorem test_dt_while_halted : nextIs (step { State.reset with halt := true, dt := 3, pending := [.strobes false false true] })
    (fun t => t.dt == 2 && t.log == []) = true := by decide
theorem test_skp : nextIs (run { withRegs [(0, 0x15)] with keypadIn := 0x0020 } 0xE09E) (fun t => t.pc == 0x204) = true := by
  decide
theorem test_sknp : nextIs (run { withRegs [(0, 0x05)] with keypadIn := 0xFFDF } 0xE0A1) (fun t => t.pc == 0x204) = true := by
  decide
theorem test_ldVxK_issue : nextIs (run { State.reset with keypadIn := 0x0080 } 0xF30A)
    (fun t => t.waitingForKey && t.pc == 0x200 && t.reg 3 == 0 && t.prevKeypad == 0x0080) = true := by decide
theorem test_ldVxK_service : nextIs (step { State.reset.withFetchWord 16 0xF30A with
    waitingForKey := true, prevKeypad := 0x0010, keypadIn := 0x0480 })
    (fun t => t.reg 3 == 7 && !t.waitingForKey && t.pc == 0x202 && t.prevKeypad == 0x0480) = true := by decide

-- 2.6

theorem test_drw_wraps : nextIs (run (poke (poke (withI 0x300 [(0, 0x3C), (1, 0x1F)]) 0x300 0xFF) 0x301 0x81) 0xD012)
    (fun t => byteIs t 0xFFF 0x0F && byteIs t 0xFF8 0xF0 && byteIs t 0xF07 0x08 && byteIs t 0xF00 0x10 &&
      t.reg 0xF == 0 && t.drawFlag) = true := by decide
theorem test_drw_collides_once : nextIs (run (poke (poke (poke (withI 0x300 []) 0x300 0x80) 0xF00 0x80) 0xF08 0xFF) 0xD012)
    (fun t => byteIs t 0xF00 0x00 && byteIs t 0xF08 0xFF && t.reg 0xF == 1) = true := by decide
theorem test_cls : nextIs (run (poke (withRegs [(0xF, 0x01)]) 0xF00 0xFF) 0x00E0)
    (fun t => t.mem == [(0x201, 0xE0)] && t.reg 0xF == 1 && t.drawFlag) = true := by decide +kernel

-- 2.7, and the set rows

theorem test_banned_word : nextIs (run State.reset 0x6F01) (fun t => t.halt && t.faultCause == 2 && t.pc == 0x200 &&
    t.reg 0xF == 0 && t.log == [.cpu .fatal 2 0x200 0x6F01]) = true := by decide
theorem test_extended_word : nextIs (run State.reset 0xD120) (fun t => t.halt && t.faultCause == 3) = true := by decide
theorem test_unclassified_word : nextIs (run State.reset 0xFFFF) (fun t => !t.halt && t.pc == 0x202 &&
    t.log == [.cpu .warning 1 0x200 0xFFFF]) = true := by decide
theorem test_fetch_at_top : nextIs (step (State.reset.goto 0xFFF)) (fun t => t.faultCause == 8 && t.pc == 0xFFF &&
    t.log == [.cpu .fatal 8 0xFFF 0]) = true := by decide

-- Witnesses: states and operands that meet the hypotheses of each statement of Certificates/Slice0/Obligations.lean, one
-- for each clause that has hypotheses of its own.

theorem test_witness_encode : WellFormed Config.default (.sys 0x123) = true ∧ WellFormed Config.default .ext00FD = true ∧
    WellFormed Config.default .banFF07 = true ∧ decode Config.default 0x0123 = .instr (.sys 0x123) ∧
    Instr.rowClass (.sys 0x123) = .valid := by decide

theorem test_witness_precedence : inSet defaultExtended 0x00FD = true ∧
    (inSet defaultExtended 0x6F12 = false ∧ inSet defaultBanned 0x6F12 = true) ∧
    (inSet defaultExtended 0xFFFF = false ∧ inSet defaultBanned 0xFFFF = false) ∧
    (inSet defaultExtended 0x6A2C = false ∧ inSet defaultBanned 0x6A2C = false) := by decide

theorem test_witness_shift : (State.reset.config.shiftMode = .legacy → (0 : Byte) = State.reset.reg 1) ∧
    (State.reset.config.shiftMode = .modern → (0 : Byte) = State.reset.reg 0) ∧
    (withConfig State.reset legacy).config.shiftMode = .legacy := by decide

theorem test_witness_unofficial : Instr.unofficial (.xorReg 1 2) = true ∧ Instr.unofficial (.shlReg 15 15) = true := by decide

theorem test_witness_call : (11 < Config.default.stackDepth ∧ State.reset.stack.length = Config.default.stackDepth) ∧
    ({ State.reset with sp := 12 } : State).sp = Config.default.stackDepth ∧ Config.default.stackFaultFatal = true := by decide

theorem test_witness_ret : 0 < ({ State.reset with sp := 1 } : State).sp ∧ State.reset.sp = 0 ∧
    State.reset.config.stackFaultFatal = true := by decide

theorem test_witness_ret_after_call : State.reset.sp < State.reset.config.stackDepth ∧
    State.reset.stack.length = State.reset.config.stackDepth ∧
    nextIs (exec (.call 0x300) State.reset) (fun t => t.sp == 1 && t.pc == 0x300) = true := by decide

theorem test_witness_bcd : State.reset.mem.wf false = true ∧ (withI 0xFFD []).i.toNat + 2 ≤ 0xFFF := by decide

theorem test_witness_store : State.reset.mem.wf false = true ∧ (withI 0xFF0 []).i.toNat + (0xF : RegNum).toNat ≤ 0xFFF := by
  decide

/-- The sixteen cells up to the top of memory can be read. -/
theorem test_witness_readable : (withI 0xFF0 []).Readable 16 := by
  intro k hk
  obtain ⟨b, hb⟩ := Memory.cell_framebuffer false [] (a := 0xFF0 + k) (by unfold fbBase; omega)
  exact ⟨by show 0xFF0 + k ≤ 0xFFF; omega, b, hb⟩

theorem test_witness_traps : (withI 0xFFE []).i.toNat + 2 > 0xFFF ∧ (withI 0xFF1 []).i.toNat + (0xF : RegNum).toNat > 0xFFF := by
  decide

/-- The second cell from `0xFFF` is out of range. -/
theorem test_witness_bad_read_range : (withI 0xFFF []).FirstBadRead 2 8 := by
  refine ⟨1, by omega, ?_, .inl ⟨by decide, rfl⟩⟩
  intro k hk
  obtain rfl : k = 0 := by omega
  exact ⟨by decide, 0, by decide⟩

/-- The first cell from `0x300` is Unset in strict mode. -/
theorem test_witness_bad_read_unset : (withConfig (withI 0x300 []) strict).FirstBadRead 1 6 := by
  exact ⟨0, by omega, fun k hk => absurd hk (by omega), .inr ⟨by decide, by decide, rfl⟩⟩

theorem test_witness_undo : State.reset.mem.wf false = true ∧ (withI 0x400 [(0, 1)]).i.toNat + (0 : RegNum).toNat ≤ 0xFFF ∧
    nextIs (exec (.ldIndVx 0) (withI 0x400 [(0, 1)])) (fun t => t.i == 0x400 && byteIs t 0x400 1) = true := by decide

theorem test_witness_memory : (0x1000 > 0xFFF) ∧ Memory.cell true [] 0x200 = none ∧ Memory.cell true [] 0xFFF = some 0 ∧
    Memory.wf true [] = true := by decide

/-- A sprite of fifteen rows that ends at the framebuffer. -/
theorem test_witness_drw : (withI 0xEF1 []).Readable (0xF : Nibble).toNat ∧
    (withI 0xEF1 []).i.toNat + (0xF : Nibble).toNat ≤ 0xF00 ∧ (withI 0xEF1 []).mem.wf false = true := by
  refine ⟨fun k hk => ?_, by decide, by decide⟩
  have hk' : k < 15 := hk
  obtain ⟨b, hb⟩ := Memory.cell_nonstrict [] (a := 0xEF1 + k)
  exact ⟨by show 0xEF1 + k ≤ 0xFFF; omega, b, hb⟩

/-- A sprite that straddles the start of the framebuffer: its second row is read after the first is drawn (R151). -/
theorem test_witness_drw_straddles : (poke (withI 0xEFF []) 0xEFF 0x80).Readable (0x2 : Nibble).toNat ∧
    (poke (withI 0xEFF []) 0xEFF 0x80).mem.wf false = true ∧
    nextIs (exec (.drw 0 1 2) (poke (withI 0xEFF []) 0xEFF 0x80)) (fun t => byteIs t 0xF00 0x80 && byteIs t 0xF08 0x80) = true := by
  refine ⟨fun k hk => ?_, by decide, by decide⟩
  have hk' : k < 2 := hk
  obtain ⟨b, hb⟩ := Memory.cell_nonstrict (poke (withI 0xEFF []) 0xEFF 0x80).mem (a := 0xEFF + k)
  exact ⟨by show 0xEFF + k ≤ 0xFFF; omega, b, hb⟩

theorem test_witness_drw_twice : (0 : RegNum) ≠ vF ∧ (1 : RegNum) ≠ vF ∧ (poke (withI 0x300 []) 0x300 0xFF).Readable 1 ∧
    (poke (withI 0x300 []) 0x300 0xFF).mem.wf false = true ∧
    nextIs (exec (.drw 0 1 1) (poke (withI 0x300 []) 0x300 0xFF)) (fun t => byteIs t 0xF00 0xFF) = true := by
  refine ⟨by decide, by decide, fun k hk => ?_, by decide, by decide⟩
  obtain rfl : k = 0 := by omega
  exact ⟨by decide, 0xFF, by decide⟩

theorem test_witness_key_wait : State.reset.waitingForKey = false ∧ ((0x8001 : Keys) &&& ~~~(0x8001 : Keys) = 0) ∧
    ((0x8000 : Keys).getLsbD 15 = true ∧ (0x0001 : Keys).getLsbD 15 = false ∧
      ∀ j < 15, (0x8000 : Keys).getLsbD j = true → (0x0001 : Keys).getLsbD j = true) ∧
    ((0x0001 : Keys).getLsbD 0 = true ∧ (0x0000 : Keys).getLsbD 0 = false) := by decide

theorem test_witness_strobes : nextIs (step { State.reset.withFetchWord 16 0x1200 with pending := [.strobes true true true] })
      (fun t => t.pc == 0x200) = true ∧ State.reset.pause = false ∧
    nextIs (cpuTick { State.reset.withFetchWord 16 0x1200 with pending := [] }) (fun t => t.pc == 0x200) = true := by decide

/-- A paused machine, and one without a CPU strobe: the timers tick and the pc stays (60_exceptions.md R189, R184). -/
theorem test_paused_strobes :
    step { State.reset with pause := true, st := 1, dt := 5, pending := [.strobes true true true] } =
      .next { State.reset with pause := true, dt := 4 } ∧
    step { State.reset with st := 0, dt := 5, pending := [.strobes false true true] } = .next { State.reset with dt := 4 } :=
  ⟨rfl, rfl⟩

/-- A state about to run a word that lies at its pc. -/
theorem test_witness_runs : (State.reset.withFetchWord 16 0x6A2C).Runs 0x6A2C ∧
    decode Config.default 0x6A2C = .instr (.ldByte 0xA 0x2C) :=
  ⟨⟨rfl, rfl, rfl, by decide, 0x6A, 0x2C, by decide, by decide, by decide⟩, by decide⟩

theorem test_witness_runs_sets : (State.reset.withFetchWord 16 0x00FD).Runs 0x00FD ∧ inSet defaultExtended 0x00FD = true ∧
    (State.reset.withFetchWord 16 0x6F01).Runs 0x6F01 ∧ inSet defaultBanned 0x6F01 = true :=
  ⟨⟨rfl, rfl, rfl, by decide, 0x00, 0xFD, by decide, by decide, by decide⟩, by decide,
   ⟨rfl, rfl, rfl, by decide, 0x6F, 0x01, by decide, by decide, by decide⟩, by decide⟩

/-- A waiting state at its key-wait instruction; and, under the stack policy the machine refuses, a refused `ret`. -/
theorem test_witness_runs_waiting :
    ({ State.reset.withFetchWord 16 0xF30A with waitingForKey := true, loadOpen := false } : State).Runs 0xF30A ∧
    (withConfig State.reset { Config.default with stackFaultFatal := false }).config.stackFaultFatal = false ∧
    exec .ret (withConfig State.reset { Config.default with stackFaultFatal := false }) = .refused .stackWarningPolicy :=
  ⟨⟨rfl, rfl, rfl, by decide, 0xF3, 0x0A, by decide, by decide, by decide⟩, by decide, rfl⟩

theorem test_witness_set_rows : Instr.rowClass .ext00FD = .extendedUnsupported ∧ Instr.rowClass .banFF07 = .banned := by decide

theorem test_witness_no_instruction : decode Config.default 0xFFFF = .unclassified 0xFFFF ∧
    decode { Config.default with invalidFatal := true } 0xFFFF = .unclassified 0xFFFF ∧
    decode { Config.default with extended := [⟨0xFFFF, 0x1234⟩] } 0x1234 = .invalid .extendedUnsupported 0x1234 ∧
    decode { Config.default with banned := [⟨0xFFFF, 0x1234⟩] } 0x1234 = .invalid .banned 0x1234 := by decide

theorem test_witness_fetch : (State.reset.goto 0xFFE).pc.toNat + 1 ≤ 0xFFF ∧ (State.reset.goto 0xFFE).cell 0xFFE = some 0 ∧
    (State.reset.goto 0xFFE).cell 0xFFF = some 0 ∧ (withConfig State.reset strict).cell 0x200 = none ∧
    (State.reset.goto 0xFFF).pc.toNat = 0xFFF ∧ (withConfig (State.reset.goto 0x09F) strict).cell 0x0A0 = none ∧
    (withConfig (State.reset.goto 0x09F) strict).cell 0x09F = some 0x80 := by decide

theorem test_witness_reset : Config.legal Config.default = true ∧
    Config.stackDepth { Config.default with stackDepth := 0 } = 0 ∧
    Config.stackFaultFatal { Config.default with stackFaultFatal := false } = false := by decide

theorem test_witness_load : State.reset.loadOpen = true ∧ (List.replicate 3584 (0 : Byte)).length ≤ 3584 ∧
    (List.replicate 3585 (0 : Byte)).length > 3584 ∧ ({ State.reset with loadOpen := false } : State).loadOpen = false :=
  ⟨rfl, by rw [List.length_replicate], by rw [List.length_replicate]; omega, rfl⟩

/-- A machine with rewind about to pop its one frame. -/
theorem test_witness_rewind : ∃ (s : State) (f : RewindFrame), s.pending = [.rewind 1] ∧ s.config.rewindDepth ≠ 0 ∧
    s.mem.wf s.config.strictUninit = true ∧ Memory.wfFrom s.config.strictUninit fbBase f.fb = true ∧ s.rewind = [] ++ f :: [] :=
  ⟨{ withConfig State.reset { Config.default with rewindDepth := 2 } with
      pending := [.rewind 1], rewind := [State.reset.frame 0x200 (decodedRecord 0xA300 (.instr (.ldIAddr 0x300)))] },
   State.reset.frame 0x200 (decodedRecord 0xA300 (.instr (.ldIAddr 0x300))), rfl, by decide, rfl, rfl, rfl⟩

/-- A machine with rewind about to pop no frame, one about to pop more than its ring holds, and one without rewind. -/
theorem test_witness_rewind_edges : ∃ s u w : State,
    (s.pending = .rewind 0 :: [] ∧ s.config.rewindDepth ≠ 0) ∧
    (u.pending = .rewind 1 :: [] ∧ u.config.rewindDepth ≠ 0 ∧ 1 > u.rewind.length) ∧
    (w.pending = .rewind 1 :: [] ∧ w.config.rewindDepth = 0) :=
  ⟨{ withConfig State.reset { Config.default with rewindDepth := 2 } with pending := [.rewind 0] },
   { withConfig State.reset { Config.default with rewindDepth := 2 } with pending := [.rewind 1] },
   { State.reset with pending := [.rewind 1] }, ⟨rfl, by decide⟩, ⟨rfl, by decide, by decide⟩, rfl, rfl⟩

/-- A tick pushes a frame, and a `rewind` brings its pc back. -/
theorem test_rewind : nextIs (step ((withConfig State.reset { Config.default with rewindDepth := 2 }).withFetchWord 16 0xA300))
    (fun t => t.rewind.length == 1 && nextIs (step { t with pc := 0x300, pending := [.rewind 1] })
      (fun u => u.pc == 0x202 && u.i == 0x300 && u.rewind == [])) = true := by decide

theorem test_witness_fatal : State.reset.halt = false ∧
    nextIs (exec .ret State.reset) (fun t => t.halt) = true ∧
    nextIs (run State.reset 0x00EE) (fun t => t.halt && t.pending == [] && !t.pause) = true := by decide

theorem test_witness_next_pc : nextIs (exec (.seByte 0 0) State.reset) (fun t => !t.halt && t.pc == 0x204) = true ∧
    nextIs (exec .ret State.reset) (fun t => t.halt && t.pc == 0x200) = true := by decide

theorem test_witness_flag : nextIs (exec (.addReg 0 1) (withRegs [(0, 0xFF), (1, 1)]))
    (fun t => t.reg vF != State.reset.reg vF) = true := by decide

theorem test_witness_special_state :
    (nextIs (exec (.ldIAddr 1) State.reset) (fun t => t.i != State.reset.i) &&
     nextIs (exec (.call 1) State.reset) (fun t => t.sp != State.reset.sp) &&
     nextIs (exec (.ldDtVx 0) (withRegs [(0, 1)])) (fun t => t.dt != State.reset.dt) &&
     nextIs (exec (.ldStVx 0) (withRegs [(0, 1)])) (fun t => t.st != State.reset.st) &&
     nextIs (exec (.jpAddr 0x200) State.reset) (fun t => t.spinning) &&
     nextIs (exec (.drw 0 0 1) State.reset) (fun t => t.drawFlag) &&
     nextIs (exec (.ldVxK 0) State.reset) (fun t => t.waitingForKey) &&
     nextIs (exec (.ldBVx 0) (withI 0x300 [(0, 1)])) (fun t => t.mem != State.reset.mem)) = true := by decide

theorem test_witness_invariant : State.reset.Inv := by
  refine ⟨rfl, by decide, by decide, by decide, by decide, by decide, by decide, ?_⟩
  intro f hf
  cases hf

/-- The key-wait invariant with the CPU waiting. -/
theorem test_witness_key_wait_invariant :
    ({ State.reset.withFetchWord 16 0xF30A with waitingForKey := true, loadOpen := false } : State).KeyWaitInv :=
  fun _ _ => ⟨rfl, 0xF30A, 3, by decide, by decide⟩

theorem test_witness_refused :
    step { State.reset with pending := [.reset { Config.default with stackDepth := 0 }] } = .refused .illegalConfiguration ∧
    step { State.reset with loadOpen := false, pending := [.load []] } = .refused .loadNotLegal ∧
    step { State.reset with pending := [.rewind 1] } = .refused .rewindDisabled := ⟨rfl, rfl, rfl⟩

theorem test_witness_canonical : Memory.wf true [(0x200, 0xAB), (0x201, 0x00)] = true ∧ Memory.wf false [(0x201, 0x00)] = false := by
  decide

/-- The host's steps as the next to come, and none with the pause held. -/
theorem test_witness_pending : ({ State.reset with pending := [.strobes false false true] } : State).pending =
      .strobes false false true :: [] ∧
    ({ State.reset with pending := [.strobes false true false] } : State).pending = .strobes false true false :: [] ∧
    ({ State.reset with pending := [.strobes true true true] } : State).pending = .strobes true true true :: [] ∧
    ({ State.reset with pending := [.reset Config.default] } : State).pending = .reset Config.default :: [] ∧
    ({ State.reset with pending := [.load [0x12, 0x00]] } : State).pending = .load [0x12, 0x00] :: [] ∧
    ({ State.reset with pending := [.keypadIn 1] } : State).pending = .keypadIn 1 :: [] ∧
    ({ State.reset with pending := [.pause true] } : State).pending = .pause true :: [] ∧
    ({ State.reset with pending := [.drawAck] } : State).pending = .drawAck :: [] ∧
    (({ State.reset with pause := true } : State).pending = [] ∧ ({ State.reset with pause := true } : State).pause = true) :=
  ⟨rfl, rfl, rfl, rfl, rfl, rfl, rfl, rfl, rfl, rfl⟩

/-- A step from a state with the invariants, on a machine without rewind; and a halted state about to tick. -/
theorem test_witness_step : State.reset.config.rewindDepth = 0 ∧ State.reset.config.stackFaultFatal = true ∧
    State.reset.KeyWaitInv ∧ nextIs (step State.reset) (fun t => t.pc == 0x202) = true ∧
    (State.reset.halted 5 0x00EE).halt = true ∧ (State.reset.halted 5 0x00EE).pending = [] :=
  ⟨rfl, rfl, fun _ h => absurd h (by decide), by decide, rfl, rfl⟩

end Sys2Proof.Tests
end

/-! PROOFS. Encoding (30_encoding.md R60 to R73): the decoder answers an instruction exactly on the word of a
well-formed one, and the mnemonic and operands of a Valid row name that row alone. -/

namespace Sys2Proof

-- A word is of a format exactly when its fields are the format's (R61, R62).

theorem formatA_eq_iff {op : Nibble} {a : Addr} {w : Word} :
    formatA op a = w ↔ opNibble w = op ∧ fieldNnn w = a := by
  constructor
  · rintro rfl; simp
  · rintro ⟨rfl, rfl⟩; exact formatA_fields w

theorem formatRB_eq_iff {op : Nibble} {x : RegNum} {kk : Byte} {w : Word} :
    formatRB op x kk = w ↔ opNibble w = op ∧ fieldX w = x ∧ fieldKk w = kk := by
  constructor
  · rintro rfl; simp
  · rintro ⟨rfl, rfl, rfl⟩; exact formatRB_fields w

theorem formatRR_eq_iff {op : Nibble} {x y : RegNum} {n : Nibble} {w : Word} :
    formatRR op x y n = w ↔ opNibble w = op ∧ fieldX w = x ∧ fieldY w = y ∧ fieldN w = n := by
  constructor
  · rintro rfl; simp
  · rintro ⟨rfl, rfl, rfl, rfl⟩; exact formatRR_fields w

-- The three row maps, and what it is for a word to be the word of a row's instruction.

/-- `w` is the word of `i`, a row of class `k` whose shape conditions `i` meets. -/
def IsRowOf (k : RowClass) (i : Instr) (w : Word) : Prop :=
  i.rowClass = k ∧ i.shapeOk = true ∧ encode i = w

/-- The decoder's map of the rows of one class. -/
def rowOfClass (k : RowClass) (w : Word) : Option Instr :=
  match k with
  | .valid => decodeValid w
  | .extendedUnsupported => extendedRow w
  | .banned => bannedRow w

/-- The class whose map the decoder consults for a word (R69's order: `EXTENDED`, `BANNED`, the rows of R65). -/
def consultedClass (c : Config) (w : Word) : RowClass :=
  if inSet c.extended w then .extendedUnsupported else if inSet c.banned w then .banned else .valid

theorem orElseDecoded_eq_instr_iff {row : Option Instr} {d : Decoded} {i : Instr} (hd : d ≠ .instr i) :
    orElseDecoded row d = .instr i ↔ row = some i := by
  cases row with
  | none => simp [orElseDecoded, hd]
  | some j => simp [orElseDecoded]

/-- The decoder answers an instruction exactly when the map of the class it consults does. -/
theorem decode_eq_instr_iff_row {c : Config} {w : Word} {i : Instr} :
    decode c w = .instr i ↔ rowOfClass (consultedClass c w) w = some i := by
  unfold decode consultedClass
  split
  · exact orElseDecoded_eq_instr_iff (by simp)
  · split
    · exact orElseDecoded_eq_instr_iff (by simp)
    · exact orElseDecoded_eq_instr_iff (by simp)

/-- The classification condition says that the decoder consults the instruction's own class for its word. -/
theorem classOk_iff {c : Config} {i : Instr} :
    i.classOk c = true ↔ consultedClass c (encode i) = i.rowClass := by
  unfold Instr.classOk consultedClass
  cases i.rowClass <;> cases inSet c.extended (encode i) <;> cases inSet c.banned (encode i) <;> decide

-- From the word of an instruction to the instruction: each class's map finds the row.

/-- The sixteen words `00C.` are of no other SUPER-CHIP row. -/
theorem extendedRow_ext00C (n : Nibble) : extendedRow (encode (.ext00C n)) = some (.ext00C n) := by
  revert n; decide

theorem rowOfClass_encode {i : Instr} (hs : i.shapeOk = true) :
    rowOfClass i.rowClass (encode i) = some i := by
  cases i with
  | sys nnn =>
    obtain ⟨hcls, hret⟩ : nnn ≠ 0x0E0#12 ∧ nnn ≠ 0x0EE#12 := by simpa [Instr.shapeOk] using hs
    simp [rowOfClass, Instr.rowClass, encode, decodeValid, decodeFamily0, hcls, hret]
  | drw x y n =>
    have hn : n ≠ 0#4 := by simpa [Instr.shapeOk] using hs
    simp [rowOfClass, Instr.rowClass, encode, decodeValid, hn]
  | ext00C n => exact extendedRow_ext00C n
  | _ =>
    simp [rowOfClass, Instr.rowClass, encode, decodeValid, decodeFamily0, decodeFamily8, decodeFamilyE, decodeFamilyF,
      extendedRow, bannedRow]

-- From what a map answers back to the word, family by family.

section Answers
variable {w : Word} {i : Instr}

theorem isRowOf_decodeFamily0 (hop : opNibble w = 0x0) : IsRowOf .valid (decodeFamily0 w) w := by
  unfold decodeFamily0
  split_ifs with hcls hret
  · exact ⟨rfl, rfl, formatA_eq_iff.mpr ⟨hop, hcls⟩⟩
  · exact ⟨rfl, rfl, formatA_eq_iff.mpr ⟨hop, hret⟩⟩
  · have hshape : (Instr.sys (fieldNnn w)).shapeOk = true := by simpa [Instr.shapeOk] using ⟨hcls, hret⟩
    exact ⟨rfl, hshape, formatA_eq_iff.mpr ⟨hop, rfl⟩⟩

theorem isRowOf_of_decodeFamily8 (hop : opNibble w = 0x8) (h : decodeFamily8 w = some i) : IsRowOf .valid i w := by
  unfold decodeFamily8 at h
  split at h <;> cases h <;> exact ⟨rfl, rfl, formatRR_eq_iff.mpr ⟨hop, rfl, rfl, ‹fieldN w = _›⟩⟩

theorem isRowOf_of_decodeFamilyE (hop : opNibble w = 0xE) (h : decodeFamilyE w = some i) : IsRowOf .valid i w := by
  unfold decodeFamilyE at h
  split at h <;> cases h <;> exact ⟨rfl, rfl, formatRB_eq_iff.mpr ⟨hop, rfl, ‹fieldKk w = _›⟩⟩

theorem isRowOf_of_decodeFamilyF (hop : opNibble w = 0xF) (h : decodeFamilyF w = some i) : IsRowOf .valid i w := by
  unfold decodeFamilyF at h
  split at h <;> cases h <;> exact ⟨rfl, rfl, formatRB_eq_iff.mpr ⟨hop, rfl, ‹fieldKk w = _›⟩⟩

/-- The cases are the leading nibbles in order; the last is for none. -/
theorem isRowOf_of_decodeValid (h : decodeValid w = some i) : IsRowOf .valid i w := by
  unfold decodeValid at h
  split at h
  case h_1 hop => cases h; exact isRowOf_decodeFamily0 hop
  case h_2 hop | h_3 hop | h_11 hop | h_12 hop => cases h; exact ⟨rfl, rfl, formatA_eq_iff.mpr ⟨hop, rfl⟩⟩
  case h_4 hop | h_5 hop | h_7 hop | h_8 hop | h_13 hop =>
    cases h; exact ⟨rfl, rfl, formatRB_eq_iff.mpr ⟨hop, rfl, rfl⟩⟩
  case h_6 hop | h_10 hop =>
    split_ifs at h with hn
    cases h; exact ⟨rfl, rfl, formatRR_eq_iff.mpr ⟨hop, rfl, rfl, hn⟩⟩
  case h_9 hop => exact isRowOf_of_decodeFamily8 hop h
  case h_14 hop =>
    split_ifs at h with hn
    cases h; exact ⟨rfl, bne_iff_ne.mpr hn, formatRR_eq_iff.mpr ⟨hop, rfl, rfl, rfl⟩⟩
  case h_15 hop => exact isRowOf_of_decodeFamilyE hop h
  case h_16 hop => exact isRowOf_of_decodeFamilyF hop h
  case h_17 => cases h

theorem isRowOf_of_extendedRow (h : extendedRow w = some i) : IsRowOf .extendedUnsupported i w := by
  unfold extendedRow at h
  split at h
  next hop =>
    split at h
    case h_6 =>
      split_ifs at h with hxy
      cases h; exact ⟨rfl, rfl, formatRR_eq_iff.mpr ⟨hop, hxy.1, hxy.2, rfl⟩⟩
    all_goals cases h; exact ⟨rfl, rfl, formatA_eq_iff.mpr ⟨hop, ‹fieldNnn w = _›⟩⟩
  next hop =>
    split_ifs at h with hn
    cases h; exact ⟨rfl, rfl, formatRR_eq_iff.mpr ⟨hop, rfl, rfl, hn⟩⟩
  next hop =>
    split at h <;> cases h <;> exact ⟨rfl, rfl, formatRB_eq_iff.mpr ⟨hop, rfl, ‹fieldKk w = _›⟩⟩
  next => cases h

theorem isRowOf_of_bannedRow (h : bannedRow w = some i) : IsRowOf .banned i w := by
  unfold bannedRow at h
  split_ifs at h with hx
  split at h
  case h_1 hop | h_2 hop | h_4 hop => cases h; exact ⟨rfl, rfl, formatRB_eq_iff.mpr ⟨hop, hx, rfl⟩⟩
  case h_3 hop =>
    split at h <;> cases h <;> exact ⟨rfl, rfl, formatRR_eq_iff.mpr ⟨hop, hx, rfl, ‹fieldN w = _›⟩⟩
  case h_5 hop =>
    split at h <;> cases h <;> exact ⟨rfl, rfl, formatRB_eq_iff.mpr ⟨hop, hx, ‹fieldKk w = _›⟩⟩
  case h_6 => cases h

theorem isRowOf_of_rowOfClass {k : RowClass} (h : rowOfClass k w = some i) : IsRowOf k i w := by
  cases k with
  | valid => exact isRowOf_of_decodeValid h
  | extendedUnsupported => exact isRowOf_of_extendedRow h
  | banned => exact isRowOf_of_bannedRow h

end Answers

/-- The decoder answers an instruction exactly on the word of a well-formed one. -/
theorem decode_eq_instr_iff {c : Config} {w : Word} {i : Instr} :
    decode c w = .instr i ↔ WellFormed c i = true ∧ encode i = w := by
  rw [decode_eq_instr_iff_row, WellFormed, Bool.and_eq_true, classOk_iff]
  constructor
  · intro h
    obtain ⟨hclass, hshape, rfl⟩ := isRowOf_of_rowOfClass h
    exact ⟨⟨hshape, hclass.symm⟩, rfl⟩
  · rintro ⟨⟨hshape, hclass⟩, rfl⟩
    rw [hclass]
    exact rowOfClass_encode hshape

-- The pair of a mnemonic and an operand list (R63, R73).

/-- The assembler's instruction table: the Valid row of a mnemonic with an operand list of its kinds. -/
def assemble : Mnemonic × List Operand → Option Instr
  | (.cls, []) => some .cls
  | (.ret, []) => some .ret
  | (.sys, [.address nnn]) => some (.sys nnn)
  | (.jp, [.address nnn]) => some (.jpAddr nnn)
  | (.jp, [.v0, .address nnn]) => some (.jpV0 nnn)
  | (.call, [.address nnn]) => some (.call nnn)
  | (.se, [.register x, .byte kk]) => some (.seByte x kk)
  | (.se, [.register x, .register y]) => some (.seReg x y)
  | (.sne, [.register x, .byte kk]) => some (.sneByte x kk)
  | (.sne, [.register x, .register y]) => some (.sneReg x y)
  | (.ld, [.register x, .byte kk]) => some (.ldByte x kk)
  | (.ld, [.register x, .register y]) => some (.ldReg x y)
  | (.ld, [.register x, .delayTimer]) => some (.ldVxDt x)
  | (.ld, [.register x, .keyWait]) => some (.ldVxK x)
  | (.ld, [.register x, .indirectLoad]) => some (.ldVxInd x)
  | (.ld, [.indexRegister, .address nnn]) => some (.ldIAddr nnn)
  | (.ld, [.delayTimer, .register x]) => some (.ldDtVx x)
  | (.ld, [.soundTimer, .register x]) => some (.ldStVx x)
  | (.ld, [.font, .register x]) => some (.ldFVx x)
  | (.ld, [.bcd, .register x]) => some (.ldBVx x)
  | (.ld, [.indirectStore, .register x]) => some (.ldIndVx x)
  | (.add, [.register x, .byte kk]) => some (.addByte x kk)
  | (.add, [.register x, .register y]) => some (.addReg x y)
  | (.add, [.indexRegister, .register x]) => some (.addIVx x)
  | (.or, [.register x, .register y]) => some (.orReg x y)
  | (.and, [.register x, .register y]) => some (.andReg x y)
  | (.xor, [.register x, .register y]) => some (.xorReg x y)
  | (.sub, [.register x, .register y]) => some (.subReg x y)
  | (.shr, [.register x, .register y]) => some (.shrReg x y)
  | (.subn, [.register x, .register y]) => some (.subnReg x y)
  | (.shl, [.register x, .register y]) => some (.shlReg x y)
  | (.rnd, [.register x, .byte kk]) => some (.rnd x kk)
  | (.drw, [.register x, .register y, .nibble n]) => some (.drw x y n)
  | (.skp, [.register x]) => some (.skp x)
  | (.sknp, [.register x]) => some (.sknp x)
  | _ => none

/-- The table gives every Valid row back from its mnemonic and operands. -/
theorem assemble_of_assembly {i : Instr} {a : Mnemonic × List Operand} (h : i.assembly = some a) :
    assemble a = some i := by
  cases i <;> cases h <;> rfl

theorem exists_assembly_of_valid {i : Instr} (h : i.rowClass = .valid) : ∃ a, i.assembly = some a := by
  cases i <;> cases h <;> exact ⟨_, rfl⟩

/-- Two rows with one mnemonic and operand list are one row, if one of them is Valid. -/
theorem eq_of_assembly_eq {i j : Instr} (hi : i.rowClass = .valid) (h : j.assembly = i.assembly) : j = i := by
  obtain ⟨a, ha⟩ := exists_assembly_of_valid hi
  have hj : assemble a = some j := assemble_of_assembly (h.trans ha)
  exact Option.some.inj (hj.symm.trans (assemble_of_assembly ha))

theorem template_covers_encode (i : Instr) : i.template.covers (encode i) = true :=
  beq_iff_eq.mpr (Laws.RowMatch.all i)

/-- Settles O1: the word of a well-formed instruction is one the decoder answers with it. -/
theorem decodeOfEncodeIsTheInstruction : Obligations.DecodeOfEncodeIsTheInstruction :=
  fun _ _ hwf => decode_eq_instr_iff.mpr ⟨hwf, rfl⟩

/-- Settles O2: a decoded word is the word of its instruction, which the mnemonic and operands of a Valid row name. -/
theorem encodeOfDecodeIsTheWord : Obligations.EncodeOfDecodeIsTheWord := by
  intro c w i hdec
  obtain ⟨hwf, rfl⟩ := decode_eq_instr_iff.mp hdec
  exact ⟨rfl, template_covers_encode i, hwf, fun hvalid j hj => by rw [eq_of_assembly_eq hvalid hj]⟩

end Sys2Proof

/-! PROOFS. Decode and dispatch (40_decode_dispatch.md R86): what the unofficial instructions have in common. -/

namespace Sys2Proof.Machine

/-- The one form of the unofficial meanings (R86): the optional event, a write to the register file, the default advance. -/
theorem exec_unofficial {i : Instr} (hi : i.unofficial = true) (s : State) :
    ∃ v, exec i s = .next { s.logUnofficial (encode i) with v := v }.advance := by
  cases i with
  | xorReg | subnReg | shrReg | shlReg => exact ⟨_, rfl⟩
  | _ => cases hi

/-- Settles O13: beside the event and the advance, the one form of the unofficial meanings reaches the registers alone. -/
theorem unofficialInstructionsAreLogged : Obligations.UnofficialInstructionsAreLogged := by
  intro s i hi
  obtain ⟨v, hexec⟩ := exec_unofficial hi s
  refine ⟨_, hexec, ?log, ?halt, ?pc, ?frame⟩
  case log => exact s.logUnofficial_log (encode i)
  case halt => exact s.logUnofficial_halt (encode i)
  case pc => exact congrArg (· + 2) (s.logUnofficial_pc (encode i))
  case frame => rw [s.logUnofficial_frame]; rfl

end Sys2Proof.Machine

/-! PROOFS. Timers (60_exceptions.md R180 to R183): one timer strobe, and any number of ticks of one timer. -/

namespace Sys2Proof.Machine

/-- Ticks in a row count down by their number, and stop at zero (R183). -/
theorem countdown_iterate_toNat (b : Byte) (k : Nat) : (countdown^[k] b).toNat = b.toNat - k := by
  induction k with
  | zero => rfl
  | succ k ih => rw [Function.iterate_succ_apply', countdown_toNat, ih, Nat.sub_sub]

/-- On its own timer `dt_tick` is the countdown, however often it comes. -/
theorem State.dtTick_iterate_dt (s : State) (k : Nat) : (State.dtTick^[k] s).dt = countdown^[k] s.dt :=
  have hsemi : Function.Semiconj State.dt State.dtTick countdown := State.dtTick_dt
  hsemi.iterate_right k s

theorem State.stTick_iterate_st (s : State) (k : Nat) : (State.stTick^[k] s).st = countdown^[k] s.st :=
  have hsemi : Function.Semiconj State.st State.stTick countdown := State.stTick_st
  hsemi.iterate_right k s

/-- Settles O36: each timer's ticks are countdowns of its byte, and `k` of those subtract `k` down to zero. -/
theorem timersReachZeroAndStay : Obligations.TimersReachZeroAndStay := by
  intro s k
  rw [State.dtTick_iterate_dt, State.stTick_iterate_st]
  exact ⟨countdown_iterate_toNat s.dt k, countdown_iterate_toNat s.st k⟩

/-- Strobes that bring no `cpu_tick`, for lack of its strobe or under `pause`, are timer ticks alone (R184, R189). -/
theorem step_eq_timerTicks {s : State} {cpu st dt : Bool} {q : List HostStep} (hpending : s.pending = .strobes cpu st dt :: q)
    (hcpu : (cpu && !s.pause) = false) : step s = .next ({ s with pending := q }.timerTicks st dt) := by
  unfold step nextStep
  rw [hpending]
  dsimp only [hostStep, runStrobes]
  rw [hcpu]
  rfl

/-- Settles O35: the step is the strobed timer's tick, which is one countdown of its byte. -/
theorem timerTicksCountDownClamped : Obligations.TimerTicksCountDownClamped := by
  intro s q
  constructor
  · intro hpending
    exact ⟨_, step_eq_timerTicks hpending rfl, countdown_toNat s.dt, rfl⟩
  · intro hpending
    exact ⟨_, step_eq_timerTicks hpending rfl, countdown_toNat s.st, rfl⟩

end Sys2Proof.Machine

/-! PROOFS. What the decoder makes of a word (30_encoding.md R64 to R69): the class it consults, and the words that are no
instruction. -/

namespace Sys2Proof

/-- What the decoder answers for a word the map of its class has no row for. -/
def unmatched (k : RowClass) (w : Word) : Decoded :=
  match k with
  | .valid => .unclassified w
  | .extendedUnsupported => .invalid .extendedUnsupported w
  | .banned => .invalid .banned w

theorem decode_eq (c : Config) (w : Word) :
    decode c w = orElseDecoded (rowOfClass (consultedClass c w) w) (unmatched (consultedClass c w) w) := by
  unfold decode consultedClass
  split_ifs <;> rfl

/-- The decoder answers the row of the class it consults, or names the word as one the class has no row for. -/
theorem decode_cases (c : Config) (w : Word) :
    (∃ i, decode c w = .instr i ∧ IsRowOf (consultedClass c w) i w) ∨
    (decode c w = unmatched (consultedClass c w) w ∧ rowOfClass (consultedClass c w) w = none) := by
  rw [decode_eq]
  cases hrow : rowOfClass (consultedClass c w) w with
  | none => exact .inr ⟨rfl, rfl⟩
  | some i => exact .inl ⟨i, rfl, isRowOf_of_rowOfClass hrow⟩

theorem consultedClass_extended {c : Config} {w : Word} (h : inSet c.extended w = true) :
    consultedClass c w = .extendedUnsupported := if_pos h

theorem consultedClass_banned {c : Config} {w : Word} (hext : inSet c.extended w = false) (hban : inSet c.banned w = true) :
    consultedClass c w = .banned := by simp [consultedClass, hext, hban]

theorem consultedClass_valid_iff {c : Config} {w : Word} :
    consultedClass c w = .valid ↔ inSet c.extended w = false ∧ inSet c.banned w = false := by
  unfold consultedClass
  split_ifs <;> simp_all

/-- Settles O5: `decode_cases` at the class each clause's sets select. -/
theorem classificationPrecedence : Obligations.ClassificationPrecedence := by
  intro c w
  have hcases := decode_cases c w
  refine ⟨fun hext => ?_, fun hext hban => ?_, fun hext hban => ?_⟩
  · rw [consultedClass_extended hext] at hcases
    exact hcases.imp (fun ⟨i, hdec, hclass, _⟩ => ⟨i, hdec, hclass⟩) And.left
  · rw [consultedClass_banned hext hban] at hcases
    exact hcases.imp (fun ⟨i, hdec, hclass, _⟩ => ⟨i, hdec, hclass⟩) And.left
  · rw [consultedClass_valid_iff.mpr ⟨hext, hban⟩] at hcases
    refine hcases.imp (fun ⟨i, hdec, hclass, _⟩ => ⟨i, hdec, hclass⟩) (fun ⟨hdec, hnone⟩ => ⟨hdec, ?_⟩)
    rintro i hclass hshape rfl
    rw [← hclass, rowOfClass_encode hshape] at hnone
    cases hnone

theorem decode_eq_unclassified_iff {c : Config} {w : Word} :
    decode c w = .unclassified w ↔ (inSet c.extended w = false ∧ inSet c.banned w = false) ∧ decodeValid w = none := by
  rw [← consultedClass_valid_iff]
  constructor
  · intro h
    obtain ⟨i, hdec, _⟩ | ⟨hdec, hnone⟩ := decode_cases c w
    · rw [hdec] at h; cases h
    · rw [hdec] at h
      cases hclass : consultedClass c w <;> rw [hclass] at h hnone <;> cases h
      exact ⟨rfl, hnone⟩
  · rintro ⟨hclass, hnone⟩
    rw [decode_eq, hclass]
    show orElseDecoded (decodeValid w) _ = _
    rw [hnone]
    rfl

-- Which words a template covers: those whose nibbles under its mask are the match's (R64).

section Covers
variable {w : Word} {op : Nibble} {x y : RegNum} {n : Nibble} {kk : Byte}

theorem covers_FFFF :
    Template.covers ⟨0xFFFF, formatRB op x kk⟩ w = true ↔ opNibble w = op ∧ fieldX w = x ∧ fieldKk w = kk := by
  have hand : w &&& 0xFFFF = w := BitVec.and_allOnes
  rw [Template.covers, hand, beq_iff_eq, eq_comm, formatRB_eq_iff]

theorem covers_FF00 : Template.covers ⟨0xFF00, formatRB op x 0⟩ w = true ↔ opNibble w = op ∧ fieldX w = x := by
  rw [Template.covers, ← formatRB_fields w, formatRB_covered_x, beq_iff_eq, formatRB_eq_iff]
  simp [eq_comm]

theorem covers_F0FF : Template.covers ⟨0xF0FF, formatRB op 0 kk⟩ w = true ↔ opNibble w = op ∧ fieldKk w = kk := by
  rw [Template.covers, ← formatRB_fields w, formatRB_covered_kk, beq_iff_eq, formatRB_eq_iff]
  simp [eq_comm]

theorem covers_F00F : Template.covers ⟨0xF00F, formatRR op 0 0 n⟩ w = true ↔ opNibble w = op ∧ fieldN w = n := by
  rw [Template.covers, ← formatRR_fields w, formatRR_covered_n, beq_iff_eq, formatRR_eq_iff]
  simp [eq_comm]

theorem covers_FF0F :
    Template.covers ⟨0xFF0F, formatRR op x 0 n⟩ w = true ↔ opNibble w = op ∧ fieldX w = x ∧ fieldN w = n := by
  rw [Template.covers, ← formatRR_fields w, formatRR_covered_xn, beq_iff_eq, formatRR_eq_iff]
  simp [eq_comm]

theorem covers_FFF0 :
    Template.covers ⟨0xFFF0, formatRR op x y 0⟩ w = true ↔ opNibble w = op ∧ fieldX w = x ∧ fieldY w = y := by
  rw [Template.covers, ← formatRR_fields w, formatRR_covered_xy, beq_iff_eq, formatRR_eq_iff]
  simp [eq_comm]

end Covers

theorem defaultExtended_eq : defaultExtended =
    [⟨0xFFF0, formatRR 0x0 0x0 0xC 0⟩, ⟨0xFFFF, formatRB 0x0 0x0 0xFB⟩, ⟨0xFFFF, formatRB 0x0 0x0 0xFC⟩,
      ⟨0xFFFF, formatRB 0x0 0x0 0xFD⟩, ⟨0xFFFF, formatRB 0x0 0x0 0xFE⟩, ⟨0xFFFF, formatRB 0x0 0x0 0xFF⟩,
      ⟨0xF00F, formatRR 0xD 0 0 0x0⟩, ⟨0xF0FF, formatRB 0xF 0 0x30⟩, ⟨0xF0FF, formatRB 0xF 0 0x75⟩,
      ⟨0xF0FF, formatRB 0xF 0 0x85⟩] := rfl

theorem defaultBanned_eq : defaultBanned =
    [⟨0xFF00, formatRB 0x6 0xF 0⟩, ⟨0xFF00, formatRB 0x7 0xF 0⟩, ⟨0xFF0F, formatRR 0x8 0xF 0 0x0⟩,
      ⟨0xFF00, formatRB 0xC 0xF 0⟩, ⟨0xFFFF, formatRB 0xF 0xF 0x07⟩, ⟨0xFFFF, formatRB 0xF 0xF 0x0A⟩,
      ⟨0xFFFF, formatRB 0xF 0xF 0x65⟩, ⟨0xFF0F, formatRR 0x8 0xF 0 0x4⟩, ⟨0xFF0F, formatRR 0x8 0xF 0 0x6⟩,
      ⟨0xFF0F, formatRR 0x8 0xF 0 0xE⟩] := rfl

/-- `EXTENDED` by default, as the fields of its words (R66). -/
theorem inSet_defaultExtended_iff {w : Word} : inSet defaultExtended w = true ↔
    (opNibble w = 0x0 ∧ fieldX w = 0x0 ∧ (fieldY w = 0xC ∨ fieldKk w ∈ ([0xFB, 0xFC, 0xFD, 0xFE, 0xFF] : List Byte))) ∨
    (opNibble w = 0xD ∧ fieldN w = 0x0) ∨ (opNibble w = 0xF ∧ fieldKk w ∈ ([0x30, 0x75, 0x85] : List Byte)) := by
  simp only [inSet, defaultExtended_eq, List.any_cons, List.any_nil, Bool.or_eq_true, covers_FFFF, covers_F00F, covers_FFF0,
    covers_F0FF, List.mem_cons, List.not_mem_nil, Bool.false_eq_true, and_or_left, or_assoc, or_false]

/-- Every word of `BANNED` by default has a row in the opcode map (R67: the templates are Valid rows with `X` = 15). -/
theorem decodeValid_ne_none_of_defaultBanned {w : Word} (h : inSet defaultBanned w = true) : decodeValid w ≠ none := by
  simp only [inSet, defaultBanned_eq, List.any_cons, List.any_nil, Bool.or_eq_true, covers_FFFF, covers_FF00, covers_FF0F,
    Bool.false_eq_true, or_false] at h
  rcases h with ⟨hop, _⟩ | ⟨hop, _⟩ | ⟨hop, _, hn⟩ | ⟨hop, _⟩ | ⟨hop, _, hk⟩ | ⟨hop, _, hk⟩ | ⟨hop, _, hk⟩ |
    ⟨hop, _, hn⟩ | ⟨hop, _, hn⟩ | ⟨hop, _, hn⟩
  all_goals simp [decodeValid, decodeFamily8, decodeFamilyF, *]

theorem nibble_mem (n : Nibble) : n ∈ ([0, 1, 2, 3, 4, 5, 6, 7, 8, 9, 10, 11, 12, 13, 14, 15] : List Nibble) := by
  revert n; decide

theorem decodeFamily8_eq_none_iff {w : Word} :
    decodeFamily8 w = none ↔ fieldN w ∈ ([0x8, 0x9, 0xA, 0xB, 0xC, 0xD, 0xF] : List Nibble) := by
  unfold decodeFamily8
  split
  case h_10 => have hn := nibble_mem (fieldN w); simp_all
  all_goals simp only [*, reduceCtorEq, false_iff]; decide

theorem decodeFamilyE_eq_none_iff {w : Word} : decodeFamilyE w = none ↔ fieldKk w ∉ ([0x9E, 0xA1] : List Byte) := by
  unfold decodeFamilyE
  split <;> simp_all

theorem decodeFamilyF_eq_none_iff {w : Word} :
    decodeFamilyF w = none ↔ fieldKk w ∉ ([0x07, 0x0A, 0x15, 0x18, 0x1E, 0x29, 0x33, 0x55, 0x65] : List Byte) := by
  unfold decodeFamilyF
  split <;> simp_all

/-- The words the opcode map has no row for (R65). -/
theorem decodeValid_eq_none_iff {w : Word} : decodeValid w = none ↔
    ((opNibble w = 5 ∨ opNibble w = 9) ∧ fieldN w ≠ 0) ∨
    (opNibble w = 8 ∧ fieldN w ∈ ([0x8, 0x9, 0xA, 0xB, 0xC, 0xD, 0xF] : List Nibble)) ∨
    (opNibble w = 0xD ∧ fieldN w = 0) ∨ (opNibble w = 0xE ∧ fieldKk w ∉ ([0x9E, 0xA1] : List Byte)) ∨
    (opNibble w = 0xF ∧ fieldKk w ∉ ([0x07, 0x0A, 0x15, 0x18, 0x1E, 0x29, 0x33, 0x55, 0x65] : List Byte)) := by
  unfold decodeValid
  split
  case h_6 hop | h_10 hop | h_14 hop => simp [hop]
  case h_9 hop => simp [hop, decodeFamily8_eq_none_iff]
  case h_15 hop => simp [hop, decodeFamilyE_eq_none_iff]
  case h_16 hop => simp [hop, decodeFamilyF_eq_none_iff]
  case h_17 => have hop := nibble_mem (opNibble w); simp_all
  all_goals next hop => simp [hop]

/-- Settles O4: of the words without a row `BANNED` takes none, and `EXTENDED` those of `D..0`, `F.30`, `F.75` and
`F.85`. -/
theorem unclassifiedWordsAreExactlyTheListed : Obligations.UnclassifiedWordsAreExactlyTheListed := by
  intro w
  have hbanned : decodeValid w = none → inSet Config.default.banned w = false := fun hnone =>
    Bool.eq_false_iff.mpr fun hban => decodeValid_ne_none_of_defaultBanned hban hnone
  have hextended : inSet Config.default.extended w = false ↔ _ :=
    Bool.eq_false_iff.trans (not_congr inSet_defaultExtended_iff)
  rw [decode_eq_unclassified_iff, and_assoc, and_iff_right_of_imp hbanned, hextended, decodeValid_eq_none_iff]
  grind

/-- Settles O3: each word is a closed term, which the decoder computes. -/
theorem listedWordsDecodeAsTheSpecSays : Obligations.ListedWordsDecodeAsTheSpecSays := by
  unfold Obligations.ListedWordsDecodeAsTheSpecSays
  decide

end Sys2Proof

/-! PROOFS. What an instruction may change (10_state.md): it raises a Fatal error and changes nothing else, or it completes,
and then each field has its own writers. -/

namespace Sys2Proof.Machine

/-- An instruction that answers a next state raised a Fatal error, or completed. -/
theorem exec_next {i : Instr} {s t : State} (h : exec i s = .next t) :
    (∃ k, RaisedKind k ∧ t = s.halted k.code (encode i)) ∨ Completed s t := by
  rcases exec_cases i s with ⟨k, hk, hraise⟩ | ⟨u, hnext, hdone⟩ | ⟨_, hrefused⟩
  · rw [hraise, raise_eq] at h
    cases h
    exact .inl ⟨k, hk, rfl⟩
  · rw [hnext] at h
    cases h
    exact .inr hdone
  · rw [hrefused] at h
    cases h

-- The completed state of each instruction whose meaning branches.

theorem exec_call_next {nnn : Addr} {s t : State} (h : exec (.call nnn) s = .next t) :
    (∃ code w, t = s.halted code w) ∨
      (s.sp < s.config.stackDepth ∧ t = (s.push (s.pc + 2)).goto nnn) := by
  simp only [exec, execCall, raiseStackFault] at h
  split_ifs at h with hsp hfatal
  · cases h; exact .inl ⟨_, _, rfl⟩
  · cases h; exact .inr ⟨by omega, rfl⟩

theorem exec_ret_next {s t : State} (h : exec .ret s = .next t) :
    (∃ code w, t = s.halted code w) ∨ t = s.pop.goto (s.stackCell (s.sp - 1)) := by
  simp only [exec, execRet, raiseStackFault] at h
  split_ifs at h with hsp hfatal
  · cases h; exact .inl ⟨_, _, rfl⟩
  · cases h; exact .inr rfl

theorem exec_drw_next {x y : RegNum} {n : Nibble} {s t : State} (h : exec (.drw x y n) s = .next t) :
    (∃ code w, t = s.halted code w) ∨
      ∃ m coll, s.Readable n.toNat ∧
        drawRows s.config.strictUninit s.mem s.i.toNat (spritePos (s.reg x) (s.reg y)) 0 n.toNat false = .ok (m, coll) ∧
        t = ({ s with mem := m, drawFlag := true }.setReg vF (flagByte coll)).advance := by
  simp only [exec, execDrw] at h
  split at h
  · cases h; exact .inl ⟨_, _, rfl⟩
  · next bs hread =>
    split at h
    · cases h; exact .inl ⟨_, _, rfl⟩
    · next m coll hdraw =>
      cases h
      obtain ⟨hlen, hcells⟩ := Memory.readBlock_ok.mp hread
      refine .inr ⟨m, coll, fun k hk => ?_, hdraw, rfl⟩
      obtain ⟨hrange, hcell⟩ := hcells k hk
      exact ⟨hrange, bs[k], hcell.trans (List.getElem?_eq_getElem (by omega))⟩

theorem storeAtI_next {s t : State} {w : Word} {bs : List Byte} (h : s.storeAtI w bs = .next t) :
    (∃ code w, t = s.halted code w) ∨
      ∃ m, s.mem.writeBlock s.config.strictUninit s.i.toNat bs = .ok m ∧ t = { s with mem := m }.advance := by
  rcases s.storeAtI_cases w bs with hraise | ⟨m, hwrite, hnext⟩
  · rw [hraise] at h; cases h; exact .inl ⟨_, _, rfl⟩
  · rw [hnext] at h; cases h; exact .inr ⟨m, hwrite, rfl⟩

theorem loadAtI_next {s t : State} {w : Word} {n : Nat} (h : s.loadAtI w n = .next t) :
    (∃ code w, t = s.halted code w) ∨
      ∃ bs, s.mem.readBlock s.config.strictUninit s.i.toNat n = .ok bs ∧ t = (s.setRegs 0 bs).advance := by
  rcases s.loadAtI_cases w n with ⟨k, _, hraise⟩ | ⟨bs, hread, hnext⟩
  · rw [hraise] at h; cases h; exact .inl ⟨_, _, rfl⟩
  · rw [hnext] at h; cases h; exact .inr ⟨bs, hread, rfl⟩

theorem exec_ldVxK_next {x : RegNum} {s t : State} (h : exec (.ldVxK x) s = .next t) :
    (s.waitingForKey = false ∧ t = keyWaitIssue s) ∨ (s.waitingForKey = true ∧ t = s) ∨
      (s.waitingForKey = true ∧ ∃ k, t = ({ s with waitingForKey := false }.setReg x (BitVec.ofNat 8 k)).advance) := by
  simp only [exec, execLdVxK, keyWaitService] at h
  split_ifs at h with hwait
  · split at h
    · cases h; exact .inr (.inl ⟨hwait, rfl⟩)
    · cases h; exact .inr (.inr ⟨hwait, _, rfl⟩)
  · cases h; exact .inl ⟨by simpa using hwait, rfl⟩

theorem exec_addIVx_eq (x : RegNum) (s : State) :
    exec (.addIVx x) s =
      .next (if s.config.addIVf
        then ({ s with i := addIResult s.i (s.reg x) }.setReg vF (flagByte (addIOverflow s.i (s.reg x)))).advance
        else { s with i := addIResult s.i (s.reg x) }.advance) := by
  simp only [exec, execAddIVx]
  split_ifs <;> rfl

/-- `cls` on a canonical memory (44_display.md R150). -/
theorem exec_cls {s : State} (hwf : s.mem.wf s.config.strictUninit = true) :
    ∃ m, exec .cls s = .next { s with mem := m, drawFlag := true }.advance ∧ m.wf s.config.strictUninit = true ∧
      ∀ b, m.cell s.config.strictUninit b = if 0xF00 ≤ b ∧ b < 0x1000 then some 0 else s.cell b := by
  have htop : fbBase + 256 ≤ memSize := Nat.le_refl 4096
  obtain ⟨hwf', hcell⟩ := Memory.clear_spec hwf htop
  exact ⟨_, rfl, hwf', hcell⟩

/-- Each field that some instruction writes has changed only where one of its writers ran (R12, R14 to R16, R18, R49). -/
def SpecialStateHasItsWriters (i : Instr) (s t : State) : Prop :=
  (t.i ≠ s.i → (∃ a, i = .ldIAddr a) ∨ (∃ x, i = .addIVx x) ∨ (∃ x, i = .ldFVx x)) ∧
  (t.sp ≠ s.sp ∨ t.stack ≠ s.stack → (∃ a, i = .call a) ∨ i = .ret) ∧
  (t.dt ≠ s.dt → ∃ x, i = .ldDtVx x) ∧ (t.st ≠ s.st → ∃ x, i = .ldStVx x) ∧
  (t.spinning ≠ s.spinning → t.spinning = true ∧ t.pc = s.pc ∧ ((∃ a, i = .jpAddr a) ∨ (∃ a, i = .jpV0 a))) ∧
  (t.drawFlag ≠ s.drawFlag → t.drawFlag = true ∧ (i = .cls ∨ ∃ x y n, i = .drw x y n)) ∧
  (t.waitingForKey ≠ s.waitingForKey → ∃ x, i = .ldVxK x) ∧
  (t.mem ≠ s.mem → i = .cls ∨ (∃ x y n, i = .drw x y n) ∨ (∃ x, i = .ldBVx x) ∨ (∃ x, i = .ldIndVx x))

theorem specialStateHasItsWriters_halted (i : Instr) (s : State) (code : BitVec 4) (w : Word) :
    SpecialStateHasItsWriters i s (s.halted code w) := by
  simp [SpecialStateHasItsWriters, State.halted]

theorem exec_specialState {i : Instr} {s t : State} (h : exec i s = .next t) : SpecialStateHasItsWriters i s t := by
  cases i with
  | call nnn =>
    obtain ⟨code, w, rfl⟩ | ⟨_, rfl⟩ := exec_call_next h
    · exact specialStateHasItsWriters_halted ..
    · simp [SpecialStateHasItsWriters]
  | ret =>
    obtain ⟨code, w, rfl⟩ | rfl := exec_ret_next h
    · exact specialStateHasItsWriters_halted ..
    · simp [SpecialStateHasItsWriters]
  | drw x y n =>
    obtain ⟨code, w, rfl⟩ | ⟨m, coll, _, _, rfl⟩ := exec_drw_next h
    · exact specialStateHasItsWriters_halted ..
    · simp [SpecialStateHasItsWriters]
  | ldBVx x | ldIndVx x =>
    obtain ⟨code, w, rfl⟩ | ⟨m, _, rfl⟩ := storeAtI_next h
    · exact specialStateHasItsWriters_halted ..
    · simp [SpecialStateHasItsWriters]
  | ldVxInd x =>
    obtain ⟨code, w, rfl⟩ | ⟨bs, _, rfl⟩ := loadAtI_next h
    · exact specialStateHasItsWriters_halted ..
    · simp [SpecialStateHasItsWriters]
  | ldVxK x =>
    obtain ⟨_, rfl⟩ | ⟨_, rfl⟩ | ⟨_, k, rfl⟩ := exec_ldVxK_next h <;> simp [SpecialStateHasItsWriters]
  | addIVx x =>
    rw [exec_addIVx_eq] at h
    split_ifs at h <;> cases h <;> simp [SpecialStateHasItsWriters]
  | jpAddr nnn | jpV0 nnn =>
    cases h
    simp [SpecialStateHasItsWriters]
    exact fun htarget _ => ⟨.inr htarget, htarget⟩
  | _ => cases h; simp [SpecialStateHasItsWriters, State.fatal]

/-- Settles O52: the fields with writers by `exec_specialState`, the others as on every Fatal error and every completion. -/
theorem onlyTheirInstructionsChangeSpecialState : Obligations.OnlyTheirInstructionsChangeSpecialState := by
  intro i s t h
  obtain ⟨hi, hstack, hdt, hst, hspin, hdraw, hwait, hmem⟩ := exec_specialState h
  refine ⟨hi, hstack, hdt, hst, hspin, hdraw, hwait, hmem, ?_⟩
  obtain ⟨k, _, rfl⟩ | ⟨_, _, hkeypad, hprev, hconfig, hrewind, hin, hpause, hload, hpending, _⟩ := exec_next h
  · simp [State.halted]
  · exact ⟨hkeypad, hprev, hconfig, hrewind, hin, hpause, hload, hpending⟩

/-- A write to one register changes no other. -/
theorem State.eq_of_reg_setReg_ne {s : State} {x y : RegNum} {b : Byte} (h : (s.setReg x b).reg y ≠ s.reg y) : x = y := by
  by_contra hxy
  exact h (by rw [State.reg_setReg, if_neg (Ne.symm hxy)])

/-- A load of `n` registers from `v0` up changes no register above them. -/
theorem State.lt_of_reg_setRegs_ne {s : State} {bs : List Byte} {y : RegNum} (hlen : bs.length ≤ 16)
    (h : (s.setRegs 0 bs).reg y ≠ s.reg y) : y.toNat < bs.length := by
  by_contra hy
  exact h (by rw [State.reg_setRegs bs s 0 y (by omega), dif_neg (by omega)])

/-- Settles O51: the meanings that write `vF` are those the table names, and a Fatal error writes no register. -/
theorem onlyFlagInstructionsChangeTheFlag : Obligations.OnlyFlagInstructionsChangeTheFlag := by
  intro i s t h hflag
  cases i with
  | addReg | subReg | subnReg | shrReg | shlReg | drw => rfl
  | ldByte x | addByte x | ldReg x | orReg x | andReg x | ldVxDt x =>
    cases h
    exact beq_iff_eq.mpr (State.eq_of_reg_setReg_ne hflag)
  | rnd x kk =>
    cases h
    exact beq_iff_eq.mpr (State.eq_of_reg_setReg_ne (s := { s with draws := s.draws + 1 }) hflag)
  | xorReg x y =>
    cases h
    rw [← s.logUnofficial_reg (encode (.xorReg x y)) vF] at hflag
    exact beq_iff_eq.mpr (State.eq_of_reg_setReg_ne hflag)
  | ldVxK x =>
    obtain ⟨_, rfl⟩ | ⟨_, rfl⟩ | ⟨_, k, rfl⟩ := exec_ldVxK_next h
    · exact absurd rfl hflag
    · exact absurd rfl hflag
    · exact beq_iff_eq.mpr (State.eq_of_reg_setReg_ne (s := { s with waitingForKey := false }) hflag)
  | ldVxInd x =>
    obtain ⟨code, w, rfl⟩ | ⟨bs, hread, rfl⟩ := loadAtI_next h
    · exact absurd rfl hflag
    · have hlen : bs.length = x.toNat + 1 := (Memory.readBlock_ok.mp hread).1
      have hlt : (15 : Nat) < bs.length := State.lt_of_reg_setRegs_ne (by omega) hflag
      exact beq_iff_eq.mpr (BitVec.eq_of_toNat_eq (by show x.toNat = 15; omega))
  | addIVx x =>
    rw [exec_addIVx_eq] at h
    split_ifs at h with hvf
    · exact hvf
    · cases h; exact absurd rfl hflag
  | call nnn => obtain ⟨code, w, rfl⟩ | ⟨_, rfl⟩ := exec_call_next h <;> exact absurd rfl hflag
  | ret => obtain ⟨code, w, rfl⟩ | rfl := exec_ret_next h <;> exact absurd rfl hflag
  | ldBVx x | ldIndVx x => obtain ⟨code, w, rfl⟩ | ⟨m, _, rfl⟩ := storeAtI_next h <;> exact absurd rfl hflag
  | _ => cases h; exact absurd rfl hflag

/-- What an instruction that transfers no control does to the pc, when it completes (R84). -/
def AdvancesPc (i : Instr) (s t : State) : Prop :=
  t.pc = s.pc + 2 ∨ (i.skips = true ∧ t.pc = s.pc + 4) ∨ ((∃ x, i = .ldVxK x) ∧ t.pc = s.pc)

theorem advancesPc_skipIf {i : Instr} {s : State} (hi : i.skips = true) (taken : Bool) : AdvancesPc i s (s.skipIf taken) := by
  cases taken with
  | true => exact .inr (.inl ⟨hi, rfl⟩)
  | false => exact .inl rfl

theorem exec_advancesPc {i : Instr} {s t : State} (hi : i.transfers = false) (hrun : t.halt = false)
    (h : exec i s = .next t) : AdvancesPc i s t := by
  cases i with
  | jpAddr | jpV0 | call | ret => cases hi
  | seByte | sneByte | seReg | sneReg | skp | sknp => cases h; exact advancesPc_skipIf rfl _
  | drw x y n =>
    obtain ⟨code, w, rfl⟩ | ⟨m, coll, _, _, rfl⟩ := exec_drw_next h
    · cases hrun
    · exact .inl rfl
  | ldBVx x | ldIndVx x =>
    obtain ⟨code, w, rfl⟩ | ⟨m, _, rfl⟩ := storeAtI_next h
    · cases hrun
    · exact .inl rfl
  | ldVxInd x =>
    obtain ⟨code, w, rfl⟩ | ⟨bs, _, rfl⟩ := loadAtI_next h
    · cases hrun
    · exact .inl (by simp)
  | ldVxK x =>
    obtain ⟨_, rfl⟩ | ⟨_, rfl⟩ | ⟨_, k, rfl⟩ := exec_ldVxK_next h
    · exact .inr (.inr ⟨⟨x, rfl⟩, rfl⟩)
    · exact .inr (.inr ⟨⟨x, rfl⟩, rfl⟩)
    · exact .inl rfl
  | addIVx x =>
    rw [exec_addIVx_eq] at h
    split_ifs at h <;> cases h <;> exact .inl rfl
  | xorReg | shrReg | subnReg | shlReg => cases h; exact .inl (by simp)
  | ext00C | ext00FB | ext00FC | ext00FD | ext00FE | ext00FF | extDXY0 | extFX30 | extFX75 | extFX85 => cases h; cases hrun
  | ban6F | ban7F | ban8FY0 | banCF | banFF07 | banFF0A | banFF65 | ban8FY4 | ban8FY6 | ban8FYE => cases h; cases hrun
  | _ => cases h; exact .inl rfl

/-- Settles O50: a Fatal error keeps the pc, a completion is `exec_advancesPc`. -/
theorem nextPcIsOneOfFour : Obligations.NextPcIsOneOfFour := by
  intro i s t h hrun
  refine ⟨fun hfatal => ?_, fun hrun' hi => exec_advancesPc hi hrun' h⟩
  obtain ⟨k, _, rfl⟩ | ⟨hhalt, _⟩ := exec_next h
  · rfl
  · rw [hhalt, hrun] at hfatal
    cases hfatal

theorem code_of_raisedKind {k : ErrorKind} (hk : RaisedKind k) : k.code ∈ ([2, 3, 4, 5, 6, 8] : List (BitVec 4)) := by
  rcases hk with rfl | rfl | rfl | rfl | rfl | rfl <;> decide

/-- Settles O46: of the two outcomes of `exec_next` only the Fatal error sets `halt`. -/
theorem fatalIsPrecise : Obligations.FatalIsPrecise := by
  intro i s t hrun h hfatal
  obtain ⟨k, hk, rfl⟩ | ⟨hhalt, _⟩ := exec_next h
  · exact ⟨code_of_raisedKind hk, rfl⟩
  · rw [hhalt, hrun] at hfatal
    cases hfatal

/-- Settles O49: the one refusal of `exec_cases` is under the Warning policy. -/
theorem everyInstructionAnswers : Obligations.EveryInstructionAnswers := by
  intro i s hpolicy
  rcases exec_cases i s with ⟨k, _, hraise⟩ | ⟨t, hnext, _⟩ | ⟨hwarning, _⟩
  · exact ⟨_, hraise⟩
  · exact ⟨t, hnext⟩
  · rw [hpolicy] at hwarning
    cases hwarning

end Sys2Proof.Machine

/-! PROOFS. The tick (40_decode_dispatch.md R80 to R89) and its errors (60_exceptions.md R173, R174): what a `cpu_tick` answers,
once for all of its branches, and what follows for one step. -/

namespace Sys2Proof.Machine

-- The handler of a fetched word, between the fetch and the end of the tick.

/-- The dispatch of the word `w` at this state, or the key-wait service while the CPU waits (R80, R83). -/
def State.runWord (s : State) (w : Word) : Result :=
  if s.waitingForKey then dispatchWaiting (decode s.config w) s.sample else dispatch (decode s.config w) s.sample

theorem cpuTick_eq_runWord {s : State} {w : Word} (hrun : s.halt = false) (hfetch : s.fetch = .ok w) :
    cpuTick s = endTick s.pc (decodedRecord w (decode s.config w)) (s.runWord w) := cpuTick_fetched hrun hfetch

/-- An instruction runs under a waiting CPU as under any other, when it is the key wait. -/
theorem State.runWord_instr {s : State} {w : Word} {i : Instr} (hdec : decode s.config w = .instr i)
    (hwait : s.waitingForKey = true → ∃ x, i = .ldVxK x) : s.runWord w = exec i s.sample := by
  unfold State.runWord
  rw [hdec]
  split_ifs with hw
  · obtain ⟨x, rfl⟩ := hwait hw
    rfl
  · rfl

theorem State.runWord_invalid {s : State} {w : Word} {r : InvalidReason} (hdec : decode s.config w = .invalid r w)
    (hwait : s.waitingForKey = false) : s.runWord w = .next (s.sample.halted (reasonKind r).code w) := by
  unfold State.runWord
  rw [hdec, hwait]
  rfl

theorem State.runWord_unclassified {s : State} {w : Word} (hdec : decode s.config w = .unclassified w)
    (hwait : s.waitingForKey = false) : s.runWord w = execUnclassified w s.sample := by
  unfold State.runWord
  rw [hdec, hwait]
  rfl

/-- A waiting CPU at another word stops with the fault (log 11). -/
theorem State.runWord_lost {s : State} {w : Word} (hwait : s.waitingForKey = true)
    (hdec : ∀ x, decode s.config w ≠ .instr (.ldVxK x)) : s.runWord w = .fault .keyWaitWordLost := by
  unfold State.runWord dispatchWaiting
  rw [if_pos hwait]
  split
  · next x hx => exact absurd hx (hdec x)
  · rfl

/-- The cases of a word at this state: an instruction that the CPU may run, an error row's or a data word of a CPU that does
not wait, and the word of a key wait that was lost. -/
theorem State.word_cases (s : State) (w : Word) :
    (∃ i, decode s.config w = .instr i ∧ encode i = w ∧ (s.waitingForKey = true → ∃ x, i = .ldVxK x)) ∨
    (s.waitingForKey = false ∧ ((∃ r, decode s.config w = .invalid r w) ∨ decode s.config w = .unclassified w)) ∨
    (s.waitingForKey = true ∧ ∀ x, decode s.config w ≠ .instr (.ldVxK x)) := by
  by_cases hlost : s.waitingForKey = true ∧ ∀ x, decode s.config w ≠ .instr (.ldVxK x)
  · exact .inr (.inr hlost)
  · obtain ⟨i, hdec, hrow⟩ | ⟨hdec, _⟩ := decode_cases s.config w
    · obtain ⟨_, _, hword⟩ := hrow
      refine .inl ⟨i, hdec, hword, fun hwait => ?_⟩
      by_contra hi
      refine hlost ⟨hwait, fun x hx => hi ⟨x, ?_⟩⟩
      rw [hdec] at hx
      exact Decoded.instr.inj hx
    · refine .inr (.inl ⟨?_, ?_⟩)
      · by_contra hwait
        refine hlost ⟨by simpa using hwait, fun x hx => ?_⟩
        rw [hdec] at hx
        unfold unmatched at hx
        split at hx <;> cases hx
      · cases hclass : consultedClass s.config w with
        | valid => rw [hclass] at hdec; exact .inr hdec
        | extendedUnsupported => rw [hclass] at hdec; exact .inl ⟨_, hdec⟩
        | banned => rw [hclass] at hdec; exact .inl ⟨_, hdec⟩

/-- A code a tick can latch as a cause (R171). -/
abbrev RaisedCode (code : BitVec 4) : Prop := code ≠ 0 ∧ code ∈ legalCauses

theorem raisedCode_of_raisedKind {k : ErrorKind} (hk : RaisedKind k) : RaisedCode k.code := by
  rcases hk with rfl | rfl | rfl | rfl | rfl | rfl <;> decide

/-- The handler of the word `w` completed with the state `u`. -/
inductive State.Ran (s : State) (w : Word) : State → Prop where
  | instr {i : Instr} {u : State} (hdec : decode s.config w = .instr i) (hwait : s.waitingForKey = true → ∃ x, i = .ldVxK x)
      (hexec : exec i s.sample = .next u) (hdone : Completed s.sample u) : s.Ran w u
  | unclassified (hdec : decode s.config w = .unclassified w) (hwait : s.waitingForKey = false) :
      s.Ran w (s.sample.logEvent .warning .invalidInstruction w).advance

/-- Every handler's completion leaves alone what no instruction writes. -/
theorem State.Ran.completed {s u : State} {w : Word} (h : s.Ran w u) : Completed s.sample u := by
  cases h with
  | instr _ _ _ hdone => exact hdone
  | unclassified => simp [Completed]

/-- A handler that answers raised a Fatal error over the sampled state, reported with its word, or completed. -/
theorem State.runWord_next {s t : State} {w : Word} (h : s.runWord w = .next t) :
    (∃ code, RaisedCode code ∧ t = s.sample.halted code w) ∨ s.Ran w t := by
  obtain ⟨i, hdec, rfl, hwait⟩ | ⟨hwait, ⟨r, hdec⟩ | hdec⟩ | ⟨hwait, hlost⟩ := s.word_cases w
  · rw [State.runWord_instr hdec hwait] at h
    obtain ⟨k, hk, rfl⟩ | hdone := exec_next h
    · exact .inl ⟨_, raisedCode_of_raisedKind hk, rfl⟩
    · exact .inr (.instr hdec hwait h hdone)
  · rw [State.runWord_invalid hdec hwait] at h
    cases h
    exact .inl ⟨_, by cases r <;> decide, rfl⟩
  · rw [State.runWord_unclassified hdec hwait, execUnclassified] at h
    split_ifs at h
    · cases h; exact .inl ⟨1, by decide, rfl⟩
    · cases h; exact .inr (.unclassified hdec hwait)
  · rw [State.runWord_lost hwait hlost] at h
    cases h

-- The end of the tick.

theorem endTick_halted {p : Addr} {d : DecodedInstruction} {t : State} (h : t.halt = true) :
    endTick p d (.next t) = .next t := if_pos h

theorem endTick_running {p : Addr} {d : DecodedInstruction} {t : State} (h : t.halt = false) :
    endTick p d (.next t) = .next (t.finish p d) := if_neg (by simp [h])

/-- What a `cpu_tick` of a running CPU answers: a Fatal error with the word the halted ticks will report again, or the end of
the tick after a handler that completed. -/
theorem cpuTick_next {s t : State} (hrun : s.halt = false) (h : cpuTick s = .next t) :
    (∃ code, RaisedCode code ∧ t = s.sample.halted code s.reportWord) ∨
    ∃ w u, s.fetch = .ok w ∧ s.Ran w u ∧ t = u.finish s.pc (decodedRecord w (decode s.config w)) := by
  cases hfetch : s.fetch with
  | error k =>
    rw [cpuTick_fetch_error hrun hfetch] at h
    cases h
    refine .inl ⟨k.code, ?_, by simp [State.reportWord, hfetch]⟩
    rcases State.fetch_error_kind hfetch with rfl | rfl <;> decide
  | ok w =>
    rw [cpuTick_eq_runWord hrun hfetch] at h
    cases hword : s.runWord w with
    | fault f => rw [hword] at h; cases h
    | refused r => rw [hword] at h; cases h
    | next u =>
      rw [hword] at h
      obtain ⟨code, hcode, rfl⟩ | hran := State.runWord_next hword
      · cases h
        exact .inl ⟨code, hcode, by simp [State.reportWord, hfetch]⟩
      · have hu : u.halt = false := hran.completed.1.trans hrun
        rw [endTick_running hu] at h
        cases h
        exact .inr ⟨w, u, rfl, hran, rfl⟩

/-- A handler answers, or stops as log 11 or R176 has it. -/
theorem State.runWord_answers (s : State) (w : Word) :
    (∃ t, s.runWord w = .next t) ∨
    (s.waitingForKey = true ∧ (∀ x, decode s.config w ≠ .instr (.ldVxK x)) ∧ s.runWord w = .fault .keyWaitWordLost) ∨
    (s.config.stackFaultFatal = false ∧ s.runWord w = .refused .stackWarningPolicy) := by
  obtain ⟨i, hdec, _, hwait⟩ | ⟨hwait, ⟨r, hdec⟩ | hdec⟩ | ⟨hwait, hlost⟩ := s.word_cases w
  · rw [State.runWord_instr hdec hwait]
    rcases exec_cases i s.sample with ⟨k, _, hraise⟩ | ⟨t, hnext, _⟩ | hrefused
    · exact .inl ⟨_, hraise⟩
    · exact .inl ⟨t, hnext⟩
    · exact .inr (.inr hrefused)
  · exact .inl ⟨_, State.runWord_invalid hdec hwait⟩
  · rw [State.runWord_unclassified hdec hwait, execUnclassified]
    split_ifs
    · exact .inl ⟨_, rfl⟩
    · exact .inl ⟨_, rfl⟩
  · exact .inr (.inl ⟨hwait, hlost, State.runWord_lost hwait hlost⟩)

/-- A `cpu_tick` answers, or stops for one of two reasons: a waiting CPU whose word at the pc is no key wait (log 11), or a
stack fault under the Warning policy (R176). -/
theorem cpuTick_answers (s : State) :
    (∃ t, cpuTick s = .next t) ∨
    (s.waitingForKey = true ∧ ¬ s.atKeyWait ∧ cpuTick s = .fault .keyWaitWordLost) ∨
    (s.config.stackFaultFatal = false ∧ cpuTick s = .refused .stackWarningPolicy) := by
  cases hhalt : s.halt with
  | true => exact .inl ⟨_, cpuTick_halted hhalt⟩
  | false =>
    cases hfetch : s.fetch with
    | error k => exact .inl ⟨_, cpuTick_fetch_error hhalt hfetch⟩
    | ok w =>
      rw [cpuTick_eq_runWord hhalt hfetch]
      obtain ⟨t, hnext⟩ | ⟨hwait, hlost, hfault⟩ | ⟨hpolicy, hrefused⟩ := s.runWord_answers w
      · rw [hnext]
        unfold endTick
        dsimp only
        split_ifs
        · exact .inl ⟨_, rfl⟩
        · exact .inl ⟨_, rfl⟩
      · refine .inr (.inl ⟨hwait, ?_, by rw [hfault]; rfl⟩)
        rintro ⟨w', x, hfetch', hdec⟩
        rw [hfetch] at hfetch'
        cases hfetch'
        exact hlost x hdec
      · exact .inr (.inr ⟨hpolicy, by rw [hrefused]; rfl⟩)

-- One step that is a tick.

theorem State.Runs.fetch_eq {s : State} {w : Word} (h : s.Runs w) : s.fetch = .ok w := by
  obtain ⟨_, _, _, hrange, hbytes⟩ := h
  exact State.fetch_ok.mpr ⟨hrange, hbytes⟩

theorem State.Runs.running {s : State} {w : Word} (h : s.Runs w) : s.halt = false := by
  obtain ⟨_, _, hrun, _⟩ := h
  exact hrun

/-- A step at a word is its handler and the end of the tick. -/
theorem State.Runs.step_eq {s : State} {w : Word} (h : s.Runs w) :
    step s = endTick s.pc (decodedRecord w (decode s.config w)) (s.runWord w) := by
  have hfetch := h.fetch_eq
  obtain ⟨hpending, hpause, hrun, _⟩ := h
  rw [step_eq_cpuTick hpending hpause, cpuTick_eq_runWord hrun hfetch]

/-- A handler that raises a Fatal error ends the tick at once. -/
theorem State.Runs.step_fatal {s : State} {w w' : Word} {code : BitVec 4} (h : s.Runs w)
    (hword : s.runWord w = .next (s.sample.halted code w')) : step s = .next (s.sample.halted code w') := by
  rw [h.step_eq, hword]
  exact endTick_halted rfl

/-- Settles O43: the handler of a decoded instruction is `exec`, and the end of the tick adds the ring and `prev_keypad`. -/
theorem stepRunsTheDecodedInstruction : Obligations.StepRunsTheDecodedInstruction := by
  intro s w i hruns hdec hwait
  have hstep : step s = endTick s.pc (decodedRecord w (.instr i)) (exec i s.sample) := by
    rw [hruns.step_eq, State.runWord_instr hdec hwait, hdec]
  refine ⟨fun f hf => ?_, fun r hr => ?_, fun t ht => ⟨fun hhalt => ?_, fun hhalt => ?_⟩⟩
  · change exec i s.sample = _ at hf
    rcases exec_cases i s.sample with ⟨k, _, h⟩ | ⟨t, h, _⟩ | ⟨_, h⟩ <;> rw [h] at hf <;> cases hf
  · exact hstep.trans (congrArg (endTick _ _) hr)
  · rw [hstep, show exec i s.sample = _ from ht, endTick_halted hhalt]
  · refine ⟨t.finish s.pc (decodedRecord w (.instr i)), ?_, t.finish_prevKeypad _ _, t.finish_rewind _ _, ?_⟩
    · rw [hstep, show exec i s.sample = _ from ht, endTick_running hhalt]
    · rw [State.finish_prevKeypad]
      exact t.finish_frame _ _

theorem State.fetch_error_hi {s : State} {k : ErrorKind} (h : s.read s.pc.toNat = .error k) : s.fetch = .error k := by
  unfold State.fetch Memory.readWord
  rw [show s.mem.read _ _ = _ from h]

theorem State.fetch_error_lo {s : State} {b : Byte} {k : ErrorKind} (hhi : s.cell s.pc.toNat = some b)
    (hlo : s.read (s.pc.toNat + 1) = .error k) : s.fetch = .error k := by
  have hread : s.mem.read s.config.strictUninit s.pc.toNat = .ok b := Memory.read_ok.mpr ⟨by omega, hhi⟩
  unfold State.fetch Memory.readWord
  rw [hread]
  dsimp only
  rw [show s.mem.read _ _ = _ from hlo]

theorem State.fetch_unset_hi {s : State} (h : s.cell s.pc.toNat = none) : s.fetch = .error .uninitializedMemoryAccess :=
  State.fetch_error_hi (Memory.read_error.mpr (.inr ⟨by omega, h, rfl⟩))

/-- The last word of memory has its high byte in the framebuffer, which is never Unset (R54). -/
theorem State.fetch_out_of_range {s : State} (h : s.pc.toNat = 0xFFF) : s.fetch = .error .addressOutOfRange := by
  obtain ⟨b, hb⟩ := Memory.cell_framebuffer s.config.strictUninit s.mem (a := s.pc.toNat) (by rw [h]; decide)
  exact State.fetch_error_lo hb (Memory.read_error.mpr (.inl ⟨by omega, rfl⟩))

theorem State.fetch_unset_lo {s : State} (hrange : s.pc.toNat + 1 ≤ 0xFFF) (h : s.cell (s.pc.toNat + 1) = none) :
    s.fetch = .error .uninitializedMemoryAccess := by
  cases hhi : s.cell s.pc.toNat with
  | none => exact State.fetch_unset_hi hhi
  | some b => exact State.fetch_error_lo hhi (Memory.read_error.mpr (.inr ⟨hrange, h, rfl⟩))

/-- Settles O44: a fetch with both bytes there answers them; each check that fails gives the Fatal tick its kind. -/
theorem fetchIsBigEndianAndTraps : Obligations.FetchIsBigEndianAndTraps := by
  intro s
  refine ⟨fun hi lo hrange hhi hlo => State.fetch_ok.mpr ⟨hrange, hi, lo, hhi, hlo, rfl⟩, fun hpending hpause hrun => ?_⟩
  have htrap : ∀ k, s.fetch = .error k → step s = .next (s.sample.halted k.code 0) := fun k hk => by
    rw [step_eq_cpuTick hpending hpause, cpuTick_fetch_error hrun hk]
  exact ⟨fun hhi => htrap _ (State.fetch_unset_hi hhi), fun hpc => htrap _ (State.fetch_out_of_range hpc),
    fun hrange hlo => htrap _ (State.fetch_unset_lo hrange hlo)⟩

/-- A frame holds nothing that the end of the tick writes. -/
theorem State.frame_finish (s : State) (p a : Addr) (d d' : DecodedInstruction) :
    (s.finish p d).frame a d' = s.frame a d' := by
  rw [s.finish_frame]
  rfl

/-- Settles O45: an Unclassified word by `execUnclassified`, the words of a set by the Fatal error of their reason. -/
theorem wordsThatAreNoInstruction : Obligations.WordsThatAreNoInstruction := by
  intro s w hruns hwait
  refine ⟨fun hdec hwarn => ?_, fun hdec hfatal => ?_, fun hdec => ?_, fun hdec => ?_⟩
  · have hword : s.runWord w = .next (s.sample.logEvent .warning .invalidInstruction w).advance := by
      rw [State.runWord_unclassified hdec hwait]
      exact if_neg (by simp [hwarn])
    have hend : step s = .next ((s.sample.logEvent .warning .invalidInstruction w).advance.finish s.pc
        (decodedRecord w (.unclassified w))) := by
      rw [hruns.step_eq, hword, hdec]
      exact endTick_running hruns.running
    refine ⟨_, hend, ?_, ?_, ?_, ?_, ?_⟩
    · rw [State.finish_pc]; rfl
    · rw [State.finish_log]; rfl
    · rw [State.finish_prevKeypad]; rfl
    · rw [State.finish_rewind, State.frame_finish]; rfl
    · rw [State.finish_frame]; simp
  · refine hruns.step_fatal ?_
    rw [State.runWord_unclassified hdec hwait]
    exact if_pos hfatal
  · exact hruns.step_fatal (State.runWord_invalid hdec hwait)
  · exact hruns.step_fatal (State.runWord_invalid hdec hwait)

theorem exec_extended {i : Instr} (hi : i.rowClass = .extendedUnsupported) (s : State) :
    exec i s = .next (s.halted 3 (encode i)) := by
  cases i <;> cases hi <;> rfl

theorem exec_banned {i : Instr} (hi : i.rowClass = .banned) (s : State) : exec i s = .next (s.halted 2 (encode i)) := by
  cases i <;> cases hi <;> rfl

/-- The handler of a word of `EXTENDED`, row of the table or not, raises the set's error (R69, R89). -/
theorem State.runWord_extended {s : State} {w : Word} (hwait : s.waitingForKey = false)
    (hset : inSet s.config.extended w = true) : s.runWord w = .next (s.sample.halted 3 w) := by
  obtain ⟨i, hdec, hclass, _, rfl⟩ | ⟨hdec, _⟩ := decode_cases s.config w
  · rw [State.runWord_instr hdec (by simp [hwait]), exec_extended (hclass.trans (consultedClass_extended hset))]
  · rw [consultedClass_extended hset] at hdec
    exact State.runWord_invalid hdec hwait

theorem State.runWord_banned {s : State} {w : Word} (hwait : s.waitingForKey = false)
    (hext : inSet s.config.extended w = false) (hban : inSet s.config.banned w = true) :
    s.runWord w = .next (s.sample.halted 2 w) := by
  obtain ⟨i, hdec, hclass, _, rfl⟩ | ⟨hdec, _⟩ := decode_cases s.config w
  · rw [State.runWord_instr hdec (by simp [hwait]), exec_banned (hclass.trans (consultedClass_banned hext hban))]
  · rw [consultedClass_banned hext hban] at hdec
    exact State.runWord_invalid hdec hwait

/-- Settles O38: the rows by their meaning, the words of a tick by the class the decoder consults. -/
theorem setRowsRaiseTheirError : Obligations.SetRowsRaiseTheirError :=
  ⟨fun _ s => ⟨fun hi => exec_extended hi s, fun hi => exec_banned hi s⟩,
    fun _ _ hruns hwait => ⟨fun hext => hruns.step_fatal (State.runWord_extended hwait hext),
      fun hext hban => hruns.step_fatal (State.runWord_banned hwait hext hban)⟩⟩

theorem step_halted {s : State} (hpending : s.pending = []) (hpause : s.pause = false) (hhalt : s.halt = true) :
    step s = .next s.sample.reReport := (step_eq_cpuTick hpending hpause).trans (cpuTick_halted hhalt)

/-- Settles O47: the halted tick's report, with the word its fetch finds. -/
theorem haltedTickOnlyReports : Obligations.HaltedTickOnlyReports := by
  intro s hpending hpause hhalt
  refine ⟨s.sample.reReport, s.reportWord, ?_, rfl, fun v hv => ?_, fun k hk => ?_, rfl⟩
  · exact step_halted hpending hpause hhalt
  · simp [State.reportWord, hv]
  · simp [State.reportWord, hk]

/-- Settles O48: the Fatal tick reports the word at its pc, and so does the halted tick, over the same memory. -/
theorem fatalIsReReportedIdentically : Obligations.FatalIsReReportedIdentically := by
  intro s t hpending hpause hrun hstep hfatal
  rw [step_eq_cpuTick hpending hpause] at hstep
  obtain ⟨code, _, rfl⟩ | ⟨w, u, _, hran, rfl⟩ := cpuTick_next hrun hstep
  · have hagain := step_halted (s := s.sample.halted code s.reportWord) hpending hpause rfl
    exact ⟨.cpu .fatal code s.pc s.reportWord, _, rfl, hagain, rfl, rfl⟩
  · rw [State.finish_halt, hran.completed.1] at hfatal
    exact absurd (hrun.symm.trans hfatal) (by decide)

end Sys2Proof.Machine

/-! PROOFS. The whole machine (00_scope.md R6): what a step of any agent can be, said once, and the invariants every step
keeps. -/

namespace Sys2Proof.Machine

-- Which step comes next, and what each agent's step answers.

theorem step_pending {s : State} {h : HostStep} {q : List HostStep} (hpending : s.pending = h :: q) :
    step s = hostStep h { s with pending := q } := by
  unfold step nextStep
  rw [hpending]

theorem step_idle {s : State} (hpending : s.pending = []) : step s = runStrobes true false false s := by
  unfold step nextStep
  rw [hpending]

/-- Strobes issued together: the timers' alone, or those after a `cpu_tick` that answers, or the stop of the `cpu_tick`. -/
theorem runStrobes_cases (cpu st dt : Bool) (s : State) :
    ((cpu && !s.pause) = false ∧ runStrobes cpu st dt s = .next (s.timerTicks st dt)) ∨
    ((cpu && !s.pause) = true ∧
      ((∃ u, cpuTick s = .next u ∧ runStrobes cpu st dt s = .next (u.timerTicks st dt)) ∨
      (∃ f, cpuTick s = .fault f ∧ runStrobes cpu st dt s = .fault f) ∨
      (∃ r, cpuTick s = .refused r ∧ runStrobes cpu st dt s = .refused r))) := by
  unfold runStrobes
  cases hcpu : cpu && !s.pause with
  | false => exact .inl ⟨rfl, rfl⟩
  | true =>
    refine .inr ⟨rfl, ?_⟩
    rw [if_pos rfl]
    cases cpuTick s with
    | next u => exact .inl ⟨u, rfl, rfl⟩
    | fault f => exact .inr (.inl ⟨f, rfl, rfl⟩)
    | refused r => exact .inr (.inr ⟨r, rfl, rfl⟩)

theorem runStrobes_next {cpu st dt : Bool} {s t : State} (h : runStrobes cpu st dt s = .next t) :
    ∃ u, (u = s ∨ cpuTick s = .next u) ∧ t = u.timerTicks st dt := by
  obtain ⟨_, hrun⟩ | ⟨_, ⟨u, htick, hrun⟩ | ⟨f, _, hrun⟩ | ⟨r, _, hrun⟩⟩ := runStrobes_cases cpu st dt s <;>
    rw [hrun] at h <;> cases h
  · exact ⟨s, .inl rfl, rfl⟩
  · exact ⟨u, .inr htick, rfl⟩

theorem hostLoad_next {bytes : List Byte} {s t : State} (h : hostLoad bytes s = .next t) :
    s.loadOpen = true ∧ bytes.length ≤ 3584 ∧
      ∃ new, t = { s with mem := s.mem.setBlock s.config.strictUninit progBase bytes, log := s.log ++ new } := by
  unfold hostLoad at h
  split_ifs at h with hopen hlen hbig
  · cases h; exact ⟨hopen, hlen, _, rfl⟩
  · cases h; exact ⟨hopen, hlen, [], by simp⟩

theorem hostRewind_next {n : Nat} {s t : State} (h : hostRewind n s = .next t) :
    s.config.rewindDepth ≠ 0 ∧
      (t = s ∨ ∃ f newer rest, s.rewind = newer ++ f :: rest ∧ t = s.restoreFrame f rest) := by
  unfold hostRewind at h
  split_ifs at h with hdepth
  refine ⟨hdepth, ?_⟩
  split at h
  · cases h; exact .inl rfl
  · next k =>
    split at h
    · cases h
    · next f rest hdrop =>
      cases h
      exact .inr ⟨f, s.rewind.take k, rest, by rw [← hdrop, List.take_append_drop], rfl⟩

/-- A property that every step of every agent keeps, one clause an agent's step (R7, R207), and taking a step off the queue. -/
structure KeptByEveryAgent (P : State → Prop) : Prop where
  queue : ∀ {s : State} (q : List HostStep), P s → P { s with pending := q }
  tick : ∀ {s t : State}, P s → cpuTick s = .next t → P t
  timers : ∀ {s : State} (st dt : Bool), P s → P (s.timerTicks st dt)
  reset : ∀ {s : State} {c : Config}, P s → c.legal = true → P (s.resetBlock c)
  load : ∀ {s t : State} {bytes : List Byte}, P s → hostLoad bytes s = .next t → P t
  keypadIn : ∀ {s : State} (levels : Keys), P s → P { s with keypadIn := levels }
  pause : ∀ {s : State} (level : Bool), P s → P { s with pause := level }
  drawAck : ∀ {s : State}, P s → P { s with drawFlag := false }
  rewind : ∀ {s t : State} {n : Nat}, P s → hostRewind n s = .next t → P t

section Kept
variable {P : State → Prop} (hP : KeptByEveryAgent P) {s t : State}
include hP

theorem KeptByEveryAgent.strobes {cpu st dt : Bool} (hs : P s) (h : runStrobes cpu st dt s = .next t) : P t := by
  obtain ⟨u, rfl | htick, rfl⟩ := runStrobes_next h
  · exact hP.timers st dt hs
  · exact hP.timers st dt (hP.tick hs htick)

theorem KeptByEveryAgent.host {a : HostStep} (hs : P s) (h : hostStep a s = .next t) : P t := by
  cases a with
  | strobes cpu st dt => exact hP.strobes hs h
  | reset c =>
    simp only [hostStep, hostReset] at h
    split_ifs at h with hlegal
    cases h
    exact hP.reset hs hlegal
  | load bytes => exact hP.load hs h
  | keypadIn levels => cases h; exact hP.keypadIn levels hs
  | pause level => cases h; exact hP.pause level hs
  | drawAck => cases h; exact hP.drawAck hs
  | rewind n => exact hP.rewind hs h

/-- Every step keeps the property. -/
theorem KeptByEveryAgent.step (hs : P s) (h : step s = .next t) : P t := by
  cases hpending : s.pending with
  | nil => rw [step_idle hpending] at h; exact hP.strobes hs h
  | cons a q => rw [step_pending hpending] at h; exact hP.host (hP.queue q hs) h

end Kept

-- The log only grows (60_exceptions.md R178).

theorem cpuTick_log {s t : State} (h : cpuTick s = .next t) : s.log <+: t.log := by
  cases hhalt : s.halt with
  | true =>
    rw [cpuTick_halted hhalt] at h
    cases h
    exact List.prefix_append ..
  | false =>
    obtain ⟨code, _, rfl⟩ | ⟨w, u, _, hran, rfl⟩ := cpuTick_next hhalt h
    · exact List.prefix_append ..
    · obtain ⟨_, _, _, _, _, _, _, _, _, _, new, hlog⟩ := hran.completed
      exact ⟨new, by rw [State.finish_log, hlog]; rfl⟩

theorem log_grows (l : List LogEvent) : KeptByEveryAgent (fun s => l <+: s.log) where
  queue _ hs := hs
  tick hs h := hs.trans (cpuTick_log h)
  timers st dt hs := by rw [State.timerTicks_frame]; exact hs
  reset hs _ := hs
  load hs h := by
    obtain ⟨_, _, new, rfl⟩ := hostLoad_next h
    exact hs.trans (List.prefix_append ..)
  keypadIn _ hs := hs
  pause _ hs := hs
  drawAck hs := hs
  rewind hs h := by
    obtain ⟨_, rfl | ⟨f, newer, rest, _, rfl⟩⟩ := hostRewind_next h
    · exact hs
    · exact hs

/-- Settles O58: a log that begins with this state's is a property every agent keeps. -/
theorem theLogOnlyGrows : Obligations.TheLogOnlyGrows := by
  intro s t h
  obtain ⟨new, hnew⟩ := (log_grows s.log).step List.prefix_rfl h
  exact ⟨new, hnew.symm⟩

-- The machine invariant.

/-- What an instruction leaves of a canonical memory is canonical. -/
theorem exec_wf {i : Instr} {s t : State} (hwf : s.mem.wf s.config.strictUninit = true) (h : exec i s = .next t) :
    t.mem.wf s.config.strictUninit = true := by
  obtain ⟨_, _, _, _, _, _, _, hwriters⟩ := exec_specialState h
  by_cases hmem : t.mem = s.mem
  · rw [hmem]; exact hwf
  · obtain rfl | ⟨x, y, n, rfl⟩ | ⟨x, rfl⟩ | ⟨x, rfl⟩ := hwriters hmem
    · obtain ⟨m, hexec, hwf', _⟩ := exec_cls hwf
      rw [hexec] at h
      cases h
      exact hwf'
    · obtain ⟨code, w, rfl⟩ | ⟨m, coll, hread, hdraw, rfl⟩ := exec_drw_next h
      · exact hwf
      · obtain ⟨m', coll', hdraw', hwf'⟩ := drawRows_of_readable (s.reg x) (s.reg y) hwf hread
        rw [hdraw] at hdraw'
        cases hdraw'
        exact hwf'
    · obtain ⟨code, w, rfl⟩ | ⟨m, hwrite, rfl⟩ := storeAtI_next h
      · exact hwf
      · exact (Memory.writeBlock_ok hwf hwrite).1
    · obtain ⟨code, w, rfl⟩ | ⟨m, hwrite, rfl⟩ := storeAtI_next h
      · exact hwf
      · exact (Memory.writeBlock_ok hwf hwrite).1

/-- An instruction keeps the length of the stack's array, and `sp` within it. -/
theorem exec_stack {i : Instr} {s t : State} (hsp : s.sp ≤ s.config.stackDepth) (h : exec i s = .next t) :
    t.stack.length = s.stack.length ∧ t.sp ≤ s.config.stackDepth := by
  obtain ⟨_, hwriters, _⟩ := exec_specialState h
  by_cases hstack : t.sp ≠ s.sp ∨ t.stack ≠ s.stack
  · obtain ⟨a, rfl⟩ | rfl := hwriters hstack
    · obtain ⟨code, w, rfl⟩ | ⟨hlt, rfl⟩ := exec_call_next h
      · exact ⟨rfl, hsp⟩
      · exact ⟨List.length_set, hlt⟩
    · obtain ⟨code, w, rfl⟩ | rfl := exec_ret_next h
      · exact ⟨rfl, hsp⟩
      · exact ⟨rfl, (Nat.sub_le _ _).trans hsp⟩
  · push Not at hstack
    obtain ⟨hsp', hstack'⟩ := hstack
    exact ⟨by rw [hstack'], by rw [hsp']; exact hsp⟩

theorem State.Inv.halted {s : State} (hinv : s.Inv) {code : BitVec 4} (hcode : RaisedCode code) (w : Word) :
    (s.halted code w).Inv := by
  obtain ⟨hwf, hlegal, hlen, hsp, _, _, hring, hframes⟩ := hinv
  exact ⟨hwf, hlegal, hlen, hsp, iff_of_true rfl hcode.1, hcode.2, hring, hframes⟩

theorem exec_inv {i : Instr} {s t : State} (hinv : s.Inv) (h : exec i s = .next t) : t.Inv := by
  obtain ⟨k, hk, rfl⟩ | ⟨hhalt, hcause, _, _, hconfig, hrewind, _⟩ := exec_next h
  · exact hinv.halted (raisedCode_of_raisedKind hk) _
  · obtain ⟨hwf, hlegal, hlen, hsp, hhalted, hcode, hring, hframes⟩ := hinv
    obtain ⟨hlen', hsp'⟩ := exec_stack hsp h
    unfold State.Inv
    rw [hconfig, hhalt, hcause, hrewind]
    exact ⟨exec_wf hwf h, hlegal, hlen'.trans hlen, hsp', hhalted, hcode, hring, hframes⟩

theorem State.Inv.frame_sound {s : State} (hinv : s.Inv) (p : Addr) (d : DecodedInstruction) :
    (s.frame p d).Sound s.config := by
  obtain ⟨hwf, _, hlen, hsp, _⟩ := hinv
  exact ⟨Memory.wfFrom_mono (Nat.le_max_right ..) (Memory.framebuffer_wfFrom hwf), hlen, hsp⟩

theorem State.Inv.finish {s : State} (hinv : s.Inv) (p : Addr) (d : DecodedInstruction) : (s.finish p d).Inv := by
  have hsound := hinv.frame_sound p d
  obtain ⟨hwf, hlegal, hlen, hsp, hhalt, hcause, hring, hframes⟩ := hinv
  unfold State.Inv
  simp only [State.finish_mem, State.finish_config, State.finish_stack, State.finish_sp, State.finish_halt,
    State.finish_faultCause, State.finish_rewind]
  refine ⟨hwf, hlegal, hlen, hsp, hhalt, hcause, ?_⟩
  split_ifs
  · exact ⟨hring, hframes⟩
  · refine ⟨List.length_take_le .., fun f hf => ?_⟩
    obtain rfl | hold := List.mem_cons.mp (List.mem_of_mem_take hf)
    · exact hsound
    · exact hframes f hold

theorem cpuTick_inv {s t : State} (hinv : s.Inv) (h : cpuTick s = .next t) : t.Inv := by
  have hsampled : s.sample.Inv := hinv
  cases hhalt : s.halt with
  | true =>
    rw [cpuTick_halted hhalt] at h
    cases h
    exact hsampled
  | false =>
    obtain ⟨code, hcode, rfl⟩ | ⟨w, u, _, hran, rfl⟩ := cpuTick_next hhalt h
    · exact hsampled.halted hcode _
    · cases hran with
      | instr _ _ hexec _ => exact (exec_inv hsampled hexec).finish _ _
      | unclassified => exact State.Inv.finish (s := (s.sample.logEvent .warning .invalidInstruction w).advance) hsampled _ _

theorem resetWith_inv {c : Config} (hlegal : c.legal = true) : (State.resetWith c).Inv :=
  ⟨rfl, hlegal, List.length_replicate, Nat.zero_le _, iff_of_false Bool.false_ne_true (not_not_intro rfl),
    List.mem_cons_self, Nat.zero_le _, fun _ hf => absurd hf List.not_mem_nil⟩

theorem inv_kept : KeptByEveryAgent State.Inv where
  queue _ hinv := hinv
  tick hinv h := cpuTick_inv hinv h
  timers st dt hinv := by rw [State.timerTicks_frame]; exact hinv
  reset _ hlegal := resetWith_inv hlegal
  load hinv h := by
    obtain ⟨hwf, hrest⟩ := hinv
    obtain ⟨_, hlen, new, rfl⟩ := hostLoad_next h
    exact ⟨(Memory.setBlock_spec hwf (by unfold progBase memSize; omega)).1, hrest⟩
  keypadIn _ hinv := hinv
  pause _ hinv := hinv
  drawAck hinv := hinv
  rewind {s _ _} hinv h := by
    obtain ⟨_, rfl | ⟨f, newer, rest, hring, rfl⟩⟩ := hostRewind_next h
    · exact hinv
    · obtain ⟨hwf, hlegal, _, _, hhalt, hcause, hdepth, hframes⟩ := hinv
      rw [hring] at hdepth hframes
      obtain ⟨hfb, hstack, hsp⟩ := hframes f (by simp)
      have hrest : rest.length ≤ s.config.rewindDepth := by
        simp only [List.length_append, List.length_cons] at hdepth
        omega
      exact ⟨Memory.restoreFramebuffer_wf hfb hwf, hlegal, hstack, hsp, hhalt, hcause, hrest,
        fun g hg => hframes g (List.mem_append_right _ (List.mem_cons_of_mem _ hg))⟩

/-- Settles O54: each agent keeps the invariant, the CPU by what `cpuTick_next` says a tick can do. -/
theorem stepKeepsTheInvariant : Obligations.StepKeepsTheInvariant := fun _ _ hinv h => inv_kept.step hinv h

end Sys2Proof.Machine

/-! PROOFS. The key wait on a machine without rewind (45_timers_keypad.md R164), and what stops a step. -/

namespace Sys2Proof.Machine

theorem State.atKeyWait_congr {s t : State} (hmem : t.mem = s.mem) (hpc : t.pc = s.pc) (hconfig : t.config = s.config)
    (h : s.atKeyWait) : t.atKeyWait := by
  unfold State.atKeyWait State.fetch at *
  rw [hmem, hpc, hconfig]
  exact h

/-- The invariant speaks of memory, the pc, the configuration and two flags alone. -/
theorem State.KeyWaitInv.congr {s t : State} (hinv : s.KeyWaitInv) (hmem : t.mem = s.mem) (hpc : t.pc = s.pc)
    (hconfig : t.config = s.config) (hwait : t.waitingForKey = s.waitingForKey)
    (hload : s.loadOpen = false → t.loadOpen = false) : t.KeyWaitInv := by
  intro hdepth hw
  rw [hconfig] at hdepth
  rw [hwait] at hw
  obtain ⟨hclosed, hat⟩ := hinv hdepth hw
  exact ⟨hload hclosed, State.atKeyWait_congr hmem hpc hconfig hat⟩

theorem keyWaitInv_of_not_waiting {s : State} (h : s.waitingForKey = false) : s.KeyWaitInv :=
  fun _ hwait => absurd (h.symm.trans hwait) (by decide)

theorem keyWaitInv_of_rewind {s : State} (h : s.config.rewindDepth ≠ 0) : s.KeyWaitInv := fun hdepth => absurd hdepth h

/-- The key wait that a tick issues or keeps up stands at the word the tick fetched. -/
theorem State.Ran.keyWaitInv {s u : State} {w : Word} (hfetch : s.fetch = .ok w) (h : s.Ran w u) : u.KeyWaitInv := by
  cases h with
  | unclassified hdec hwait => exact keyWaitInv_of_not_waiting hwait
  | @instr i _ hdec hwait hexec hdone =>
    by_cases hi : ∃ x, i = .ldVxK x
    · obtain ⟨x, rfl⟩ := hi
      have hstay : s.sample.atKeyWait := ⟨w, x, hfetch, hdec⟩
      obtain ⟨_, rfl⟩ | ⟨_, rfl⟩ | ⟨_, k, rfl⟩ := exec_ldVxK_next hexec
      · exact fun _ _ => ⟨rfl, hstay⟩
      · exact fun _ _ => ⟨rfl, hstay⟩
      · exact keyWaitInv_of_not_waiting rfl
    · have hidle : s.waitingForKey = false := Bool.eq_false_iff.mpr fun hw => hi (hwait hw)
      obtain ⟨_, _, _, _, _, _, hwriters, _⟩ := exec_specialState hexec
      have hsame : u.waitingForKey = s.sample.waitingForKey := by_contra fun hne => hi (hwriters hne)
      exact keyWaitInv_of_not_waiting (hsame.trans hidle)

theorem cpuTick_keyWaitInv {s t : State} (hinv : s.KeyWaitInv) (h : cpuTick s = .next t) : t.KeyWaitInv := by
  cases hhalt : s.halt with
  | true =>
    rw [cpuTick_halted hhalt] at h
    cases h
    exact hinv.congr rfl rfl rfl rfl fun _ => rfl
  | false =>
    obtain ⟨code, _, rfl⟩ | ⟨w, u, hfetch, hran, rfl⟩ := cpuTick_next hhalt h
    · exact hinv.congr rfl rfl rfl rfl fun _ => rfl
    · exact (hran.keyWaitInv hfetch).congr (by simp) (by simp) (by simp) (by simp) (by simp)

theorem keyWaitInv_kept : KeptByEveryAgent State.KeyWaitInv where
  queue _ hinv := hinv
  tick hinv h := cpuTick_keyWaitInv hinv h
  timers st dt hinv := by rw [State.timerTicks_frame]; exact hinv
  reset _ _ := keyWaitInv_of_not_waiting rfl
  load hinv h := by
    obtain ⟨hopen, _, new, rfl⟩ := hostLoad_next h
    refine fun hdepth hwait => ?_
    obtain ⟨hclosed, _⟩ := hinv hdepth hwait
    exact absurd (hopen.symm.trans hclosed) (by decide)
  keypadIn _ hinv := hinv
  pause _ hinv := hinv
  drawAck hinv := hinv
  rewind hinv h := by
    obtain ⟨hdepth, rfl | ⟨f, newer, rest, _, rfl⟩⟩ := hostRewind_next h
    · exact hinv
    · exact keyWaitInv_of_rewind hdepth

/-- Settles O55: a wait closes the load and stands at its word, and every agent without rewind keeps both. -/
theorem stepKeepsTheKeyWaitWord : Obligations.StepKeepsTheKeyWaitWord := fun _ _ hinv h => keyWaitInv_kept.step hinv h

/-- Settles O53: reset's memory, stack and ring are empty, and it neither halts nor waits. -/
theorem invariantHoldsAtReset : Obligations.InvariantHoldsAtReset :=
  fun _ hlegal => ⟨resetWith_inv hlegal, keyWaitInv_of_not_waiting rfl⟩

-- What a step may stop with.

theorem runStrobes_fault {cpu st dt : Bool} {s : State} {f : Fault} (h : runStrobes cpu st dt s = .fault f) :
    cpuTick s = .fault f := by
  obtain ⟨_, hrun⟩ | ⟨_, ⟨u, _, hrun⟩ | ⟨f', htick, hrun⟩ | ⟨r, _, hrun⟩⟩ := runStrobes_cases cpu st dt s <;>
    rw [hrun] at h <;> cases h
  exact htick

theorem runStrobes_refused {cpu st dt : Bool} {s : State} {r : Refusal} (h : runStrobes cpu st dt s = .refused r) :
    cpuTick s = .refused r := by
  obtain ⟨_, hrun⟩ | ⟨_, ⟨u, _, hrun⟩ | ⟨f, _, hrun⟩ | ⟨r', htick, hrun⟩⟩ := runStrobes_cases cpu st dt s <;>
    rw [hrun] at h <;> cases h
  exact htick

theorem cpuTick_fault {s : State} {f : Fault} (h : cpuTick s = .fault f) : s.waitingForKey = true ∧ ¬ s.atKeyWait := by
  obtain ⟨t, hnext⟩ | ⟨hwait, hlost, _⟩ | ⟨_, hrefused⟩ := cpuTick_answers s
  · rw [hnext] at h; cases h
  · exact ⟨hwait, hlost⟩
  · rw [hrefused] at h; cases h

theorem cpuTick_refused {s : State} {r : Refusal} (h : cpuTick s = .refused r) : s.config.stackFaultFatal = false := by
  obtain ⟨t, hnext⟩ | ⟨_, _, hfault⟩ | ⟨hpolicy, _⟩ := cpuTick_answers s
  · rw [hnext] at h; cases h
  · rw [hfault] at h; cases h
  · exact hpolicy

/-- Only strobes can fault: every other host step answers or is refused. -/
theorem hostStep_fault {a : HostStep} {s : State} {f : Fault} (h : hostStep a s = .fault f) : cpuTick s = .fault f := by
  cases a with
  | strobes cpu st dt => exact runStrobes_fault h
  | reset c => simp only [hostStep, hostReset] at h; split_ifs at h
  | load bytes => simp only [hostStep, hostLoad] at h; split_ifs at h
  | rewind n =>
    simp only [hostStep, hostRewind] at h
    split_ifs at h
    split at h
    · cases h
    · split at h <;> cases h
  | keypadIn | pause | drawAck => cases h

/-- Settles O56: a step faults where a waiting CPU is not at its key wait, which the invariant excludes. -/
theorem stepNeverFaultsWithoutRewind : Obligations.StepNeverFaultsWithoutRewind := by
  intro s f hdepth hinv h
  cases hpending : s.pending with
  | nil =>
    rw [step_idle hpending] at h
    obtain ⟨hwait, hlost⟩ := cpuTick_fault (runStrobes_fault h)
    exact hlost (hinv hdepth hwait).2
  | cons a q =>
    rw [step_pending hpending] at h
    obtain ⟨hwait, hlost⟩ := cpuTick_fault (hostStep_fault h)
    exact hlost (hinv hdepth hwait).2

/-- What each host step is refused for (R201, R202, R190, R176). -/
def HostStep.Refusable (s : State) : HostStep → Prop
  | .strobes _ _ _ => s.config.stackFaultFatal = false
  | .reset c => c.legal = false
  | .load bytes => s.loadOpen = false ∨ bytes.length > 3584
  | .rewind n => s.config.rewindDepth = 0 ∨ n > s.rewind.length
  | .keypadIn _ | .pause _ | .drawAck => False

theorem hostStep_refused {a : HostStep} {s : State} {r : Refusal} (h : hostStep a s = .refused r) : a.Refusable s := by
  cases a with
  | strobes cpu st dt => exact cpuTick_refused (runStrobes_refused h)
  | reset c =>
    simp only [hostStep, hostReset] at h
    split_ifs at h with hlegal
    exact Bool.eq_false_iff.mpr hlegal
  | load bytes =>
    simp only [hostStep, hostLoad] at h
    split_ifs at h with hopen hlen
    · exact .inr (by omega)
    · exact .inl (Bool.eq_false_iff.mpr hopen)
  | rewind n =>
    simp only [hostStep, hostRewind] at h
    split_ifs at h with hdepth
    · exact .inl hdepth
    · split at h
      · cases h
      · split at h
        · next hdrop => exact .inr (Nat.lt_succ_of_le (List.drop_eq_nil_iff.mp hdrop))
        · cases h
  | keypadIn | pause | drawAck => cases h

/-- Settles O57: `hostStep_refused` at the step that heads the queue. -/
theorem onlyHostRequestsAreRefused : Obligations.OnlyHostRequestsAreRefused := by
  intro s r hpolicy h
  have hfatal : s.config.stackFaultFatal ≠ false := by simp [hpolicy]
  cases hpending : s.pending with
  | nil =>
    rw [step_idle hpending] at h
    exact absurd (cpuTick_refused (runStrobes_refused h)) hfatal
  | cons a q =>
    rw [step_pending hpending] at h
    have hrefusable := hostStep_refused h
    cases a with
    | strobes cpu st dt => exact absurd hrefusable hfatal
    | reset c => exact .inl ⟨c, q, rfl, hrefusable⟩
    | load bytes => exact .inr (.inl ⟨bytes, q, rfl, hrefusable⟩)
    | rewind n => exact .inr (.inr ⟨n, q, rfl, hrefusable⟩)
    | keypadIn | pause | drawAck => exact hrefusable.elim

end Sys2Proof.Machine

/-! PROOFS. Reset, the host's steps (10_state.md R24, 60_exceptions.md R184 to R190, 70_reset_and_hazards.md) and the memory
they work on (20_memory.md). -/

namespace Sys2Proof.Machine

-- Memory.

/-- Settles O26: the two checks of `MemRead`, and `cell_set` for the write. -/
theorem memoryReadsWhatWasWritten : Obligations.MemoryReadsWhatWasWritten := by
  intro strict m a v
  refine ⟨fun hout => ⟨Memory.read_error.mpr (.inl ⟨hout, rfl⟩), if_pos hout⟩,
    fun hin hunset => Memory.read_error.mpr (.inr ⟨hin, hunset, rfl⟩), fun hin b hb => Memory.read_ok.mpr ⟨hin, hb⟩,
    fun hin hwf => ?_⟩
  have hcell := fun b => Memory.cell_set (a := a) v b hwf
  refine ⟨m.set strict a v, if_neg (by omega), Memory.set_wf v hwf (by unfold memSize; omega), ?_, fun b hb => ?_⟩
  · exact Memory.read_ok.mpr ⟨hin, (hcell a).trans (if_pos rfl)⟩
  · unfold Memory.read
    rw [hcell, if_neg hb]

theorem Memory.cell_cons_same (strict : Bool) (a : Nat) (v : Byte) (rest : Memory) :
    Memory.cell strict ((a, v) :: rest) a = some v := if_pos rfl

theorem Memory.cell_cons_ne {a b : Nat} (hab : b ≠ a) (strict : Bool) (v : Byte) (rest : Memory) :
    Memory.cell strict ((a, v) :: rest) b = rest.cell strict b := if_neg hab

/-- The first listed address of a canonical memory is the first whose cell is not its reset content. -/
theorem Memory.cell_head_ne {strict : Bool} {lo a : Nat} {v : Byte} {rest : Memory}
    (h : Memory.wfFrom strict lo ((a, v) :: rest) = true) : Memory.cell strict ((a, v) :: rest) a ≠ resetCell strict a := by
  obtain ⟨_, _, hne, _⟩ := Memory.wfFrom_cons.mp h
  rw [Memory.cell_cons_same]
  exact hne.symm

theorem Memory.head_le_of_cell_ne {strict : Bool} {lo a b : Nat} {v : Byte} {rest : Memory}
    (h : Memory.wfFrom strict lo ((a, v) :: rest) = true)
    (hne : Memory.cell strict ((a, v) :: rest) b ≠ resetCell strict b) : a ≤ b := by
  obtain ⟨_, hrest⟩ := Memory.wfFrom_cons.mp h
  have hfrom : Memory.wfFrom strict a ((a, v) :: rest) = true := Memory.wfFrom_cons.mpr ⟨le_rfl, hrest⟩
  by_contra hlt
  exact hne (Memory.cell_of_lt hfrom (by omega))

/-- Canonical memories that agree on the address space list the same first address, with the same byte, and so on. -/
theorem Memory.eq_of_cell_eq {strict : Bool} {m : Memory} : ∀ {m' : Memory} {lo lo' : Nat}, Memory.wfFrom strict lo m = true →
    Memory.wfFrom strict lo' m' = true → (∀ a, a ≤ 0xFFF → m.cell strict a = m'.cell strict a) → m = m' := by
  induction m with
  | nil =>
    intro m' lo lo' _ h' heq
    cases m' with
    | nil => rfl
    | cons c rest =>
      obtain ⟨_, hlt, _⟩ := Memory.wfFrom_cons.mp h'
      exact absurd (heq c.1 (Nat.le_of_lt_succ hlt)).symm (Memory.cell_head_ne h')
  | cons c rest ih =>
    obtain ⟨a, v⟩ := c
    intro m' lo lo' h h' heq
    obtain ⟨_, hlt, _, hrest⟩ := Memory.wfFrom_cons.mp h
    have ha : a ≤ 0xFFF := Nat.le_of_lt_succ hlt
    cases m' with
    | nil => exact absurd (heq a ha) (Memory.cell_head_ne h)
    | cons c' rest' =>
      obtain ⟨a', v'⟩ := c'
      obtain ⟨_, hlt', _, hrest'⟩ := Memory.wfFrom_cons.mp h'
      have hle : a' ≤ a := Memory.head_le_of_cell_ne h' (heq a ha ▸ Memory.cell_head_ne h)
      have hle' : a ≤ a' := Memory.head_le_of_cell_ne h (heq a' (by omega) ▸ Memory.cell_head_ne h')
      obtain rfl : a = a' := le_antisymm hle' hle
      have hv := heq a ha
      rw [Memory.cell_cons_same, Memory.cell_cons_same, Option.some.injEq] at hv
      subst hv
      congr 1
      refine ih hrest hrest' fun b hb => ?_
      by_cases hba : b = a
      · rw [hba, Memory.cell_of_lt hrest (Nat.lt_succ_self a), Memory.cell_of_lt hrest' (Nat.lt_succ_self a)]
      · rw [← Memory.cell_cons_ne hba strict v rest, ← Memory.cell_cons_ne hba strict v rest']
        exact heq b hb

/-- Settles O60: the canonical form from address 0 up. -/
theorem canonicalMemoriesAreEqualData : Obligations.CanonicalMemoriesAreEqualData :=
  fun _ _ _ hwf hwf' heq => Memory.eq_of_cell_eq hwf hwf' heq

-- Reset.

theorem resetCell_framebuffer (strict : Bool) {a : Nat} (ha : 0xF00 ≤ a) : resetCell strict a = some 0 := by
  have hfont : ¬ (fontBase ≤ a ∧ a < fontBase + 80) := by unfold fontBase; omega
  rw [resetCell, if_neg hfont, if_pos (show fbBase ≤ a from ha)]

theorem resetCell_unwritten (strict : Bool) {a : Nat} (hfont : a < 0x050 ∨ 0x0A0 ≤ a) (hfb : a < 0xF00) :
    resetCell strict a = if strict then none else some 0 := by
  have hfont' : ¬ (fontBase ≤ a ∧ a < fontBase + 80) := by unfold fontBase; omega
  have hfb' : ¬ fbBase ≤ a := by unfold fbBase; omega
  rw [resetCell, if_neg hfont', if_neg hfb']

/-- Settles O39: every field and every cell of `resetWith` is a value of its definition; the cells are `resetCell`'s. -/
theorem resetLeavesTheStatedValues : Obligations.ResetLeavesTheStatedValues := by
  rintro c s rfl
  refine ⟨fun x => Vector.getElem_replicate _, rfl, rfl, rfl, rfl, rfl, rfl, rfl, rfl, rfl, rfl, rfl, rfl, rfl, rfl, ?_,
    fun a hlo _ => resetCell_framebuffer _ hlo, fun a hfont hfb => resetCell_unwritten _ hfont hfb⟩
  unfold State.glyphAt
  refine ⟨?_, ?_, ?_, ?_, ?_, ?_, ?_, ?_, ?_, ?_, ?_, ?_, ?_, ?_, ?_, ?_⟩ <;> exact ⟨rfl, rfl, rfl, rfl, rfl⟩

/-- Settles O40: `Config.legal` is R201, and `resetBlock` the replaced state. -/
theorem resetReplacesTheState : Obligations.ResetReplacesTheState := by
  intro s c q hpending
  rw [step_pending hpending]
  refine ⟨fun hdepth hpolicy => ⟨_, if_pos (by simp [Config.legal, hdepth, hpolicy]), rfl⟩, fun hillegal => if_neg ?_⟩
  rcases hillegal with h | h <;> simp [Config.legal, h]

-- The host's steps.

/-- A legal load sets the image, and warns of one longer than 3232 bytes (R202). -/
theorem hostLoad_eq {bytes : List Byte} {s : State} (hopen : s.loadOpen = true) (hlen : bytes.length ≤ 3584) :
    hostLoad bytes s = .next { s with
      mem := s.mem.setBlock s.config.strictUninit progBase bytes
      log := s.log ++ if bytes.length > 3232 then [.oversizedRom .warning] else [] } := by
  unfold hostLoad
  rw [if_pos hopen, if_pos hlen]
  split_ifs
  · rfl
  · simp

/-- Settles O41: an image set inside memory, by `Memory.setBlock_spec`, and the two refusals. -/
theorem loadPlacesTheImage : Obligations.LoadPlacesTheImage := by
  intro s bytes q hpending hwf
  rw [step_pending hpending]
  refine ⟨fun hopen hlen => ?_, fun hopen hlong => ?_, fun hclosed => if_neg (by simp [hclosed])⟩
  · obtain ⟨_, hcell⟩ := Memory.setBlock_spec (a := progBase) hwf (show 0x200 + bytes.length ≤ 4096 by omega)
    refine ⟨_, hostLoad_eq hopen hlen, fun k hk => ?_, fun a ha => ?_, rfl, rfl⟩
    · refine (hcell (0x200 + k)).trans ?_
      rw [if_pos (by unfold progBase; omega), show 0x200 + k - progBase = k from Nat.add_sub_cancel_left ..,
        List.getElem?_eq_getElem hk]
    · exact (hcell a).trans (if_neg (by unfold progBase; omega))
  · exact (if_pos hopen).trans (if_neg (by omega))

/-- Settles O42: the frame after the newer ones is the head of what `rewind` drops them from. -/
theorem rewindRestoresTheListedFields : Obligations.RewindRestoresTheListedFields := by
  intro s q
  refine ⟨fun k f newer rest hpending hdepth hwf hfb hring hk => ?_, fun hpending hdepth => ?_, fun n hpending hdepth hn => ?_,
    fun n hpending hdepth => ?_⟩ <;> rw [step_pending hpending]
  · refine ⟨({ s with pending := q } : State).restoreFrame f rest, ?_, fun a ha => ?_, fun a ha => ?_, rfl⟩
    · have hdrop : s.rewind.drop k = f :: rest := by rw [hring, ← hk, List.drop_left]
      simp [hostStep, hostRewind, hdepth, hdrop]
    · exact (Memory.cell_restoreFramebuffer hfb a).trans (if_pos ha)
    · exact (Memory.cell_restoreFramebuffer hfb a).trans (if_neg (not_lt.mpr ha))
  · exact if_neg hdepth
  · cases n with
    | zero => cases hn
    | succ k =>
      have hdrop : s.rewind.drop k = [] := List.drop_eq_nil_of_le (Nat.le_of_lt_succ hn)
      simp [hostStep, hostRewind, hdepth, hdrop]
  · exact if_pos hdepth

/-- The timer strobes count down the timers that are strobed (R180, R181). -/
theorem State.timerTicks_counts (s : State) (st dt : Bool) :
    (s.timerTicks st dt).st.toNat = s.st.toNat - st.toNat ∧ (s.timerTicks st dt).dt.toNat = s.dt.toNat - dt.toNat ∧
      s.timerTicks st dt = { s with st := (s.timerTicks st dt).st, dt := (s.timerTicks st dt).dt } := by
  rw [State.timerTicks_frame]
  cases st <;> cases dt <;> simp [countdown_toNat]

/-- Settles O37: the timers tick after a `cpu_tick` that answers, and alone where none is issued. -/
theorem strobesApplyTheCpuFirst : Obligations.StrobesApplyTheCpuFirst := by
  intro s st dt q
  refine ⟨fun u hpending hpause htick => ⟨_, ?_, u.timerTicks_counts st dt⟩, fun cpu hpending hidle => ?_⟩
  · rw [step_pending hpending, hostStep]
    unfold runStrobes
    rw [if_pos (by simp [hpause]), htick]
  · exact ⟨_, step_eq_timerTicks hpending (by rcases hidle with rfl | h <;> simp [*]), State.timerTicks_counts _ st dt⟩

/-- Settles O59: each port's step by its head of the queue; under `pause` the strobes are the timers' alone. -/
theorem portStepsChangeOnlyTheirPort : Obligations.PortStepsChangeOnlyTheirPort := by
  intro s q
  refine ⟨fun levels hpending => step_pending hpending, fun level hpending => step_pending hpending,
    fun hpending => step_pending hpending, fun hpending hpause => ?_, fun st dt hpending hpause => ?_⟩
  · rw [step_idle hpending]
    unfold runStrobes
    rw [if_neg (by simp [hpause])]
    rfl
  · exact ⟨_, step_eq_timerTicks hpending (by simp [hpause]), State.timerTicks_counts _ st dt⟩

end Sys2Proof.Machine

/-! PROOFS. Single instructions (41_arithmetic.md, 42_control_flow.md, 43_memory_index.md section 2, 45_timers_keypad.md): the
frames as rules of composition, then each meaning's result over them. -/

namespace Sys2Proof.Machine

-- A frame is kept by the updates it allows.

section Frames
variable {xs : List RegNum} {s t : State}

theorem RegsFrame.refl (xs : List RegNum) (s : State) : RegsFrame xs s s := ⟨fun _ _ => rfl, fun _ => rfl, rfl⟩

theorem RegsFrame.setReg (h : RegsFrame xs s t) {x : RegNum} (hx : x ∈ xs) (b : Byte) : RegsFrame xs s (t.setReg x b) := by
  obtain ⟨hreg, hcell, hrest⟩ := h
  refine ⟨fun y hy => ?_, hcell, ?_⟩
  · rw [State.reg_setReg, if_neg (fun hyx : y = x => hy (hyx ▸ hx)), hreg y hy]
  · rw [hrest]; rfl

theorem RegsFrame.goto (h : RegsFrame xs s t) (a : Addr) : RegsFrame xs s (t.goto a) := by
  obtain ⟨hreg, hcell, hrest⟩ := h
  exact ⟨hreg, hcell, by rw [hrest]; rfl⟩

theorem RegsFrame.advance (h : RegsFrame xs s t) : RegsFrame xs s t.advance := h.goto _

theorem RegsFrame.skipIf (h : RegsFrame xs s t) (taken : Bool) : RegsFrame xs s (t.skipIf taken) := h.goto _

theorem LoggedRegsFrame.setReg (h : LoggedRegsFrame xs s t) {x : RegNum} (hx : x ∈ xs) (b : Byte) :
    LoggedRegsFrame xs s (t.setReg x b) := by
  obtain ⟨hreg, hcell, hrest⟩ := h
  refine ⟨fun y hy => ?_, hcell, ?_⟩
  · rw [State.reg_setReg, if_neg (fun hyx : y = x => hy (hyx ▸ hx)), hreg y hy]
  · rw [hrest]; rfl

theorem LoggedRegsFrame.advance (h : LoggedRegsFrame xs s t) : LoggedRegsFrame xs s t.advance := by
  obtain ⟨hreg, hcell, hrest⟩ := h
  exact ⟨hreg, hcell, by rw [hrest]; rfl⟩

theorem loggedRegsFrame_logUnofficial (xs : List RegNum) (s : State) (w : Word) : LoggedRegsFrame xs s (s.logUnofficial w) := by
  refine ⟨fun y _ => s.logUnofficial_reg w y, s.logUnofficial_cell w, ?_⟩
  rw [s.logUnofficial_frame w]

theorem loggedRegsFrame_logEvent (xs : List RegNum) (s : State) (sev : Severity) (k : ErrorKind) (w : Word) :
    LoggedRegsFrame xs s (s.logEvent sev k w) := ⟨fun _ _ => rfl, fun _ => rfl, rfl⟩

end Frames

-- The forms of a meaning that writes registers and advances: the one register, or the result and then the flag (R112).

theorem State.reg_setReg_same (s : State) (x : RegNum) (b : Byte) : (s.setReg x b).reg x = b := by
  rw [State.reg_setReg, if_pos rfl]

theorem State.reg_setRegFlag_flag (s : State) (x : RegNum) (b : Byte) (f : Bool) :
    (s.setRegFlag x b f).reg vF = flagByte f := State.reg_setReg_same ..

theorem State.reg_setRegFlag_result (s : State) {x : RegNum} (hx : x ≠ vF) (b : Byte) (f : Bool) :
    (s.setRegFlag x b f).reg x = b := by
  rw [State.setRegFlag_eq, State.reg_setReg, if_neg hx, State.reg_setReg_same]

theorem regsFrame_setReg (s : State) (x : RegNum) (b : Byte) : RegsFrame [x] s (s.setReg x b).advance :=
  ((RegsFrame.refl [x] s).setReg (by simp) b).advance

theorem regsFrame_setRegFlag (s : State) (x : RegNum) (b : Byte) (f : Bool) :
    RegsFrame [x, vF] s (s.setRegFlag x b f).advance :=
  (((RegsFrame.refl _ s).setReg (by simp) b).setReg (by simp) (flagByte f)).advance

/-- What a flag-setting unofficial meaning leaves: the event, the result, the flag, the next pc and the frame. -/
theorem unofficialFlag_spec (s : State) (w : Word) (x : RegNum) (b : Byte) (f : Bool) :
    (x ≠ vF → (((s.logUnofficial w).setRegFlag x b f).advance).reg x = b) ∧
    (((s.logUnofficial w).setRegFlag x b f).advance).reg vF = flagByte f ∧
    (((s.logUnofficial w).setRegFlag x b f).advance).pc = s.pc + 2 ∧
    (((s.logUnofficial w).setRegFlag x b f).advance).log = s.log ++ s.unofficialEvents w ∧
    LoggedRegsFrame [x, vF] s ((s.logUnofficial w).setRegFlag x b f).advance := by
  refine ⟨fun hx => State.reg_setRegFlag_result _ hx b f, State.reg_setRegFlag_flag _ x b f, by simp, s.logUnofficial_log w, ?_⟩
  exact (((loggedRegsFrame_logUnofficial _ s w).setReg (by simp) b).setReg (by simp) (flagByte f)).advance

-- Register loads, arithmetic, logic, shifts, random.

/-- Settles O6: one write to `x`. -/
theorem loadsCopyTheirSource : Obligations.LoadsCopyTheirSource := fun s x _ _ =>
  ⟨⟨_, rfl, State.reg_setReg_same .., rfl, regsFrame_setReg s x _⟩,
    ⟨_, rfl, State.reg_setReg_same .., rfl, regsFrame_setReg s x _⟩⟩

/-- Settles O7: one write to `x`, of `addResult`. -/
theorem addByteWrapsAndLeavesTheFlag : Obligations.AddByteWrapsAndLeavesTheFlag := by
  intro s x kk
  have hframe := regsFrame_setReg s x (addResult (s.reg x) kk)
  refine ⟨_, rfl, ?_, fun hx => hframe.1 vF (by simpa using hx.symm), rfl, hframe⟩
  rw [State.advance_reg, State.reg_setReg_same, addResult_toNat]

/-- Settles O8: the bits of a bitwise result. -/
theorem logicWorksBitByBit : Obligations.LogicWorksBitByBit := by
  intro s x y
  refine ⟨⟨_, rfl, fun k => ?_, rfl, regsFrame_setReg s x _⟩, ⟨_, rfl, fun k => ?_, rfl, regsFrame_setReg s x _⟩,
    ⟨_, rfl, fun k => ?_, by simp, s.logUnofficial_log _, ?_⟩⟩
  · rw [State.advance_reg, State.reg_setReg_same, BitVec.getLsbD_or]
  · rw [State.advance_reg, State.reg_setReg_same, BitVec.getLsbD_and]
  · rw [State.advance_reg, State.reg_setReg_same, BitVec.getLsbD_xor]
  · exact ((loggedRegsFrame_logUnofficial [x] s _).setReg (by simp) _).advance

/-- Settles O9: the sum, and then the carry. -/
theorem addRegSetsTheCarry : Obligations.AddRegSetsTheCarry := by
  intro s x y
  refine ⟨_, rfl, fun hx => ?_, ?_, rfl, regsFrame_setRegFlag s x _ _⟩
  · rw [State.advance_reg, State.reg_setRegFlag_result s hx, addResult_toNat]
  · rw [State.advance_reg, State.reg_setRegFlag_flag]
    exact flagByte_decide _

/-- The wrapped difference is the difference modulo 256. -/
theorem subResult_toInt (a b : Byte) : ((subResult a b).toNat : Int) = (a.toNat - b.toNat : Int) % 256 := by
  rw [subResult_toNat]
  omega

/-- Settles O10: each difference, and then its not-borrow. -/
theorem subAndSubnSetNotBorrow : Obligations.SubAndSubnSetNotBorrow := by
  intro s x y
  constructor
  · refine ⟨_, rfl, fun hx => ?_, ?_, rfl, regsFrame_setRegFlag s x _ _⟩
    · rw [State.advance_reg, State.reg_setRegFlag_result s hx, subResult_toInt]
    · rw [State.advance_reg, State.reg_setRegFlag_flag]
      exact flagByte_decide _
  · obtain ⟨hresult, hflag, hpc, hlog, hframe⟩ := unofficialFlag_spec s (encode (.subnReg x y)) x
      (subResult (s.reg y) (s.reg x)) (noBorrow (s.reg y) (s.reg x))
    refine ⟨_, rfl, fun hx => ?_, ?_, hpc, hlog, hframe⟩
    · rw [hresult hx, subResult_toInt]
    · rw [hflag]
      exact flagByte_decide _

theorem State.shiftSource_eq {s : State} {x y : RegNum} {src : Byte} (hlegacy : s.config.shiftMode = .legacy → src = s.reg y)
    (hmodern : s.config.shiftMode = .modern → src = s.reg x) : s.shiftSource x y = src := by
  cases hmode : s.config.shiftMode with
  | legacy => rw [State.shiftSource_legacy hmode, hlegacy hmode]
  | modern => rw [State.shiftSource_modern hmode, hmodern hmode]

/-- Settles O11: the source is the mode's, and both shifts have the form of `unofficialFlag_spec`. -/
theorem shiftsReadTheConfiguredSource : Obligations.ShiftsReadTheConfiguredSource := by
  intro s x y src hlegacy hmodern
  obtain rfl := State.shiftSource_eq hlegacy hmodern
  constructor
  · obtain ⟨hresult, hflag, hpc, hlog, hframe⟩ := unofficialFlag_spec s (encode (.shrReg x y)) x
      (shrResult (s.shiftSource x y)) (shrOut (s.shiftSource x y))
    refine ⟨_, rfl, fun hx => ?_, ?_, hpc, hlog, hframe⟩
    · rw [hresult hx, shrResult_toNat]
    · rw [hflag, shrOut_toNat]
  · obtain ⟨hresult, hflag, hpc, hlog, hframe⟩ := unofficialFlag_spec s (encode (.shlReg x y)) x
      (shlResult (s.shiftSource x y)) (shlOut (s.shiftSource x y))
    refine ⟨_, rfl, fun hx => ?_, ?_, hpc, hlog, hframe⟩
    · rw [hresult hx, shlResult_toNat]
    · rw [hflag, shlOut_toNat]

/-- Settles O12: whatever the byte drawn, the result is its AND with `kk`. -/
theorem rndIsADrawnByteMasked : Obligations.RndIsADrawnByteMasked := by
  intro s x kk
  have hreg : ((({ s with draws := s.draws + 1 } : State).setReg x (Config.randIn s.draws &&& kk)).advance).reg x =
      Config.randIn s.draws &&& kk := State.reg_setReg_same ..
  refine ⟨_, _, rfl, rfl, rfl, hreg, ?_, rfl, regsFrame_setReg _ x _⟩
  rw [hreg, BitVec.and_assoc, BitVec.and_not_self]
  exact BitVec.and_zero

-- Control flow.

/-- The leading nibble of `sys` is 0, so its word is its address. -/
theorem encode_sys (nnn : Addr) : encode (.sys nnn) = nnn.setWidth 16 := by
  apply BitVec.eq_of_toNat_eq
  show (0#4 ++ nnn).toNat = _
  rw [BitVec.toNat_append, BitVec.toNat_setWidth, BitVec.toNat_zero, Nat.zero_shiftLeft, Nat.zero_or]
  omega

/-- Settles O14: one Warning of code 9, with the word of `sys`, and the advance. -/
theorem sysIsIgnoredWithAWarning : Obligations.SysIsIgnoredWithAWarning := by
  intro s nnn
  refine ⟨_, rfl, ?_, rfl, (loggedRegsFrame_logEvent [] s _ _ _).advance⟩
  rw [← encode_sys]
  rfl

theorem State.jump_spinning_iff (s : State) (a : Addr) :
    (s.jump a).spinning = true ↔ s.spinning = true ∨ a = s.pc := by
  rw [State.jump_spinning, Bool.or_eq_true, beq_iff_eq]

theorem regsFrame_jump (s : State) (a : Addr) : RegsFrame [] { s with spinning := (s.jump a).spinning } (s.jump a) :=
  ⟨fun _ _ => rfl, fun _ => rfl, rfl⟩

/-- Settles O15: both are `State.jump`, to the two targets. -/
theorem jumpsReachTheirTargetAndDetectSpinning : Obligations.JumpsReachTheirTargetAndDetectSpinning := fun s nnn =>
  ⟨⟨_, rfl, rfl, s.jump_spinning_iff nnn, regsFrame_jump s nnn⟩,
    ⟨_, rfl, s.v0Target_toNat nnn, s.jump_spinning_iff (s.v0Target nnn), regsFrame_jump s (s.v0Target nnn)⟩⟩

theorem exec_call_below {s : State} (nnn : Addr) (hsp : s.sp < s.config.stackDepth) :
    exec (.call nnn) s = .next ((s.push (s.pc + 2)).goto nnn) := if_neg (not_le.mpr hsp)

theorem exec_ret_above {s : State} (hsp : 0 < s.sp) : exec .ret s = .next (s.pop.goto (s.stackCell (s.sp - 1))) :=
  if_neg hsp.ne'

theorem raiseStackFault_fatal {k : ErrorKind} {w : Word} {s : State} (hpolicy : s.config.stackFaultFatal = true) :
    raiseStackFault k w s = .next (s.halted k.code w) := if_pos hpolicy

theorem State.stackCell_push_same {s : State} (a : Addr) (hsp : s.sp < s.stack.length) :
    (s.push a).stackCell s.sp = a := by
  simp [State.stackCell, hsp]

theorem State.stackCell_push_ne {s : State} (a : Addr) {k : Nat} (hk : k ≠ s.sp) :
    (s.push a).stackCell k = s.stackCell k := by
  simp [State.stackCell, List.getD_eq_getElem?_getD, List.getElem?_set_ne hk.symm]

/-- Settles O16: the push below the depth, the raise at it. -/
theorem callPushesOrOverflows : Obligations.CallPushesOrOverflows := by
  intro s nnn
  refine ⟨fun hsp => ⟨_, exec_call_below nnn hsp, rfl, rfl, fun hlen => ?_, fun k hk => ?_, ?_⟩, fun hsp hpolicy => ?_⟩
  · exact State.stackCell_push_same _ (hlen ▸ hsp)
  · exact State.stackCell_push_ne _ hk
  · exact ⟨fun _ _ => rfl, fun _ => rfl, rfl⟩
  · exact (if_pos hsp.ge).trans (raiseStackFault_fatal hpolicy)

/-- Settles O17: the pop above 0, the raise at it. -/
theorem retPopsOrUnderflows : Obligations.RetPopsOrUnderflows := by
  intro s
  refine ⟨fun hsp => ⟨_, exec_ret_above hsp, Nat.sub_add_cancel hsp, rfl, rfl, ?_⟩, fun hsp hpolicy => ?_⟩
  · exact ⟨fun _ _ => rfl, fun _ => rfl, rfl⟩
  · exact (if_pos hsp).trans (raiseStackFault_fatal hpolicy)

/-- Settles O18: the `ret` pops the cell the `call` pushed, and the cells below it are as before. -/
theorem retReturnsToAfterTheCall : Obligations.RetReturnsToAfterTheCall := by
  intro s t u nnn hsp hlen hcall hstack hu
  rw [exec_call_below nnn hsp] at hcall
  cases hcall
  change u.stack = s.stack.set s.sp (s.pc + 2) at hstack
  change u.sp = s.sp + 1 at hu
  have hpos : 0 < u.sp := by omega
  have htop : u.sp - 1 = s.sp := by omega
  refine ⟨_, exec_ret_above hpos, ?_, htop, ?_⟩
  · show u.stackCell (u.sp - 1) = s.pc + 2
    rw [htop, State.stackCell, hstack]
    exact State.stackCell_push_same _ (hlen ▸ hsp)
  · show u.stack.take (u.sp - 1) = s.stack.take s.sp
    rw [htop, hstack, List.take_set_of_le le_rfl]

/-- The next pc of a skip whose test is `p` (R125 to R128, R165, R166). -/
theorem skipIf_pc_decide (s : State) (taken : Bool) (p : Prop) [Decidable p] (h : taken = true ↔ p) :
    (s.skipIf taken).pc.toNat = (s.pc.toNat + if p then 4 else 2) % 4096 := by
  simp only [← h]
  exact skip_pc s.pc taken

/-- Settles O19: each test as a Boolean, and `skipIf`. -/
theorem compareSkipsSkipExactlyWhenTrue : Obligations.CompareSkipsSkipExactlyWhenTrue := fun s _ _ _ =>
  ⟨⟨_, rfl, skipIf_pc_decide s _ _ beq_iff_eq, (RegsFrame.refl [] s).skipIf _⟩,
    ⟨_, rfl, skipIf_pc_decide s _ _ bne_iff_ne, (RegsFrame.refl [] s).skipIf _⟩,
    ⟨_, rfl, skipIf_pc_decide s _ _ beq_iff_eq, (RegsFrame.refl [] s).skipIf _⟩,
    ⟨_, rfl, skipIf_pc_decide s _ _ bne_iff_ne, (RegsFrame.refl [] s).skipIf _⟩⟩

-- The index register.

/-- Settles O20: the three new indices, and `vF` as `exec_addIVx_eq` has it. -/
theorem indexWritesSetTheIndex : Obligations.IndexWritesSetTheIndex := by
  intro s nnn x
  refine ⟨⟨_, rfl, rfl, rfl, (RegsFrame.refl [] _).advance⟩, ?_, ?_⟩
  · have hframe := RegsFrame.refl [vF] { s with i := addIResult s.i (s.reg x) }
    cases hvf : s.config.addIVf with
    | true =>
      refine ⟨_, by rw [exec_addIVx_eq, if_pos hvf], addIResult_toNat _ _, fun _ => ?_, fun h => absurd h (by decide), rfl,
        (hframe.setReg (by simp) _).advance⟩
      rw [State.advance_reg, State.reg_setReg_same]
      exact flagByte_decide _
    | false =>
      have hexec : exec (.addIVx x) s = .next { s with i := addIResult s.i (s.reg x) }.advance := by
        rw [exec_addIVx_eq, if_neg (by simp [hvf])]
      exact ⟨_, hexec, addIResult_toNat _ _, fun h => absurd h (by decide),
        fun _ => rfl, rfl, hframe.advance⟩
  · have hglyph := s.glyphAddr_toNat x
    refine ⟨{ s with i := s.glyphAddr x }.advance, rfl, hglyph, ?_, ?_, rfl, (RegsFrame.refl [] _).advance⟩
    · show 0x050 ≤ (s.glyphAddr x).toNat
      omega
    · show (s.glyphAddr x).toNat ≤ 0x09B
      omega

-- Timers and keypad.

/-- Settles O32: one byte copied; the sound is on while `st` is not 0. -/
theorem timerMovesCopyTheByte : Obligations.TimerMovesCopyTheByte := fun s x =>
  ⟨⟨_, rfl, State.reg_setReg_same .., rfl, regsFrame_setReg s x _⟩,
    ⟨_, rfl, rfl, rfl, (RegsFrame.refl [] _).advance⟩,
    ⟨_, rfl, rfl, bne_iff_ne, rfl, (RegsFrame.refl [] _).advance⟩⟩

theorem State.rise_getLsbD (s : State) (j : Nat) :
    s.rise.getLsbD j = true ↔ s.keypad.getLsbD j = true ∧ s.prevKeypad.getLsbD j = false := by
  rw [State.rise, BitVec.getLsbD_and, BitVec.getLsbD_not, Bool.and_eq_true, Bool.and_eq_true, Bool.not_eq_true',
    decide_eq_true_eq]
  exact ⟨fun ⟨hdown, _, hup⟩ => ⟨hdown, hup⟩, fun ⟨hdown, hup⟩ => ⟨hdown, BitVec.lt_of_getLsbD hdown, hup⟩⟩

/-- The lowest key that is down now and was up is the lowest set bit of `rise` (R164). -/
theorem State.lowestSet_rise {s : State} {k : Nat} (hk : k < 16) (hdown : s.keypad.getLsbD k = true)
    (hup : s.prevKeypad.getLsbD k = false)
    (hlow : ∀ j < k, s.keypad.getLsbD j = true → s.prevKeypad.getLsbD j = true) : lowestSet s.rise = some k := by
  refine lowestSet_some.mpr ⟨hk, (s.rise_getLsbD k).mpr ⟨hdown, hup⟩, fun j hj => ?_⟩
  refine Bool.eq_false_iff.mpr fun hrise => ?_
  obtain ⟨hdown', hup'⟩ := (s.rise_getLsbD j).mp hrise
  exact absurd ((hlow j hj hdown').symm.trans hup') (by decide)

theorem exec_ldVxK_waiting {s : State} {x : RegNum} (hwait : s.waitingForKey = true) :
    exec (.ldVxK x) s = .next (keyWaitService x s) := if_pos hwait

/-- Settles O33: the issue, and the service with `lowestSet` of the rising keys. -/
theorem keyWaitStoresTheLowestRisingKey : Obligations.KeyWaitStoresTheLowestRisingKey := by
  intro s x
  refine ⟨fun hidle => ?_, fun hwait hnone => ?_, fun hwait k hk hdown hup hlow => ?_⟩
  · exact ⟨keyWaitIssue s, if_neg (by simp [hidle]), rfl, rfl, RegsFrame.refl [] _⟩
  · rw [exec_ldVxK_waiting hwait, keyWaitService, lowestSet_none.mpr (show s.rise = 0 from hnone)]
  · rw [exec_ldVxK_waiting hwait, keyWaitService, State.lowestSet_rise hk hdown hup hlow]
    refine ⟨_, rfl, ?_, rfl, rfl, regsFrame_setReg { s with waitingForKey := false } x _⟩
    rw [State.advance_reg, State.reg_setReg_same, BitVec.toNat_ofNat]
    omega

/-- Settles O34: the level of the key the low nibble selects, and `skipIf`. -/
theorem keypadSkipsTestTheLevel : Obligations.KeypadSkipsTestTheLevel := by
  intro s x
  have hkey : s.keyDown x = s.keypad.getLsbD ((s.reg x).toNat % 16) := by rw [State.keyDown, State.lowNibble_toNat]
  refine ⟨⟨_, rfl, (RegsFrame.refl [] s).skipIf _, skipIf_pc_decide s _ _ ?_⟩,
    ⟨_, rfl, (RegsFrame.refl [] s).skipIf _, skipIf_pc_decide s _ _ ?_⟩⟩
  · rw [hkey]
  · rw [hkey, Bool.not_eq_true']

end Sys2Proof.Machine

/-! PROOFS. Memory through the index register (43_memory_index.md sections 3 and 4): stores, loads, and where they trap. -/

namespace Sys2Proof.Machine

/-- A store whose addresses are in range leaves its bytes from `I` up and everything else but the pc as before. -/
theorem storeAtI_frame {s : State} {w : Word} {bs : List Byte} (hwf : s.mem.wf s.config.strictUninit = true)
    (hrange : s.i.toNat + bs.length ≤ memSize) :
    ∃ t, s.storeAtI w bs = .next t ∧ (∀ k < bs.length, t.cell (s.i.toNat + k) = bs[k]?) ∧ t.pc = s.pc + 2 ∧
      StoreFrame s.i.toNat bs.length s t := by
  obtain ⟨m, hexec, _, hcell⟩ := State.storeAtI_ok (w := w) hwf hrange
  refine ⟨_, hexec, fun k hk => ?_, rfl, fun a ha => ?_, rfl⟩
  · refine (hcell (s.i.toNat + k)).trans ?_
    rw [if_pos (by omega), Nat.add_sub_cancel_left]
  · exact (hcell a).trans (if_neg (by omega))

/-- The three digits of a byte are its decimal digits (R143). -/
theorem bcdDigits_eq (b : Byte) : ∃ h d o : Byte, bcdDigits b = [h, d, o] ∧ d.toNat ≤ 9 ∧ o.toNat ≤ 9 ∧
    100 * h.toNat + 10 * d.toNat + o.toNat = b.toNat := by
  have hb := b.isLt
  refine ⟨_, _, _, rfl, ?_, ?_, ?_⟩ <;> simp only [BitVec.toNat_ofNat] <;> omega

/-- Settles O21: `storeAtI_frame` with the three digits. -/
theorem bcdStoresThreeDigits : Obligations.BcdStoresThreeDigits := by
  intro s x hwf hrange
  obtain ⟨t, hexec, hcell, hpc, hframe⟩ := storeAtI_frame (w := encode (.ldBVx x)) (bs := bcdDigits (s.reg x)) hwf
    (by rw [bcdDigits_length]; unfold memSize; omega)
  obtain ⟨h, d, o, hdigits, hd, ho, hsum⟩ := bcdDigits_eq (s.reg x)
  rw [hdigits] at hcell hframe
  exact ⟨t, hexec, ⟨h, d, o, hcell 0 (by simp), hcell 1 (by simp), hcell 2 (by simp), hd, ho, hsum⟩, hpc, hframe⟩

/-- Settles O22: `storeAtI_frame` with the registers up to `x`. -/
theorem blockStoreStoresTheRegisters : Obligations.BlockStoreStoresTheRegisters := by
  intro s x hwf hrange
  obtain ⟨t, hexec, hcell, hpc, hframe⟩ := storeAtI_frame (w := encode (.ldIndVx x)) (bs := s.regsUpTo x) hwf
    (by rw [State.regsUpTo_length]; unfold memSize; omega)
  rw [State.regsUpTo_length] at hcell hframe
  refine ⟨t, hexec, fun k hk => ?_, hpc, hframe⟩
  have hle : k.toNat ≤ x.toNat := hk
  rw [hcell k.toNat (by omega), State.regsUpTo_get s x hle, BitVec.ofNat_toNat, BitVec.setWidth_eq]

/-- A load whose cells can be read leaves their bytes in the registers from `v0` up. -/
theorem exec_ldVxInd_ok {s : State} {x : RegNum} (hread : s.Readable (x.toNat + 1)) :
    ∃ bs, bs.length = x.toNat + 1 ∧ (∀ k < x.toNat + 1, s.cell (s.effective k) = bs[k]?) ∧
      exec (.ldVxInd x) s = .next (s.setRegs 0 bs).advance := by
  obtain ⟨bs, hblock, hlen, hcells⟩ := State.readBlock_of_readable hread
  refine ⟨bs, hlen, hcells, ?_⟩
  show s.loadAtI _ _ = _
  rw [State.loadAtI, hblock]

/-- Settles O23: the bytes read are the registers loaded. -/
theorem blockLoadLoadsTheRegisters : Obligations.BlockLoadLoadsTheRegisters := by
  intro s x hread
  obtain ⟨bs, hlen, hcells, hexec⟩ := exec_ldVxInd_ok hread
  have hbound : 0 + bs.length ≤ 16 := by omega
  refine ⟨_, hexec, fun k hk => ?_, fun k hk => ?_, by simp, by simp, ?_⟩
  · have hle : k.toNat ≤ x.toNat := hk
    rw [State.advance_reg, State.reg_setRegs bs s 0 k hbound, dif_pos (by omega)]
    exact (hcells k.toNat (by omega)).trans (List.getElem?_eq_getElem (by omega))
  · have hlt : x.toNat < k.toNat := hk
    rw [State.advance_reg, State.reg_setRegs bs s 0 k hbound, dif_neg (by omega)]
  · rw [State.setRegs_frame bs s 0]
    rfl

/-- Settles O24: each trap from the failing access of its sequence. -/
theorem memoryInstructionsTrapPrecisely : Obligations.MemoryInstructionsTrapPrecisely := by
  intro s x y n code
  refine ⟨fun hrange => ?_, fun hrange => ?_, fun hbad => ?_, fun hbad => ?_⟩
  · exact State.storeAtI_error (by simp [bcdDigits]) (by rw [bcdDigits_length]; unfold memSize; omega)
  · refine State.storeAtI_error (fun hnil => ?_) (by rw [State.regsUpTo_length]; unfold memSize; omega)
    have hlen := s.regsUpTo_length x
    rw [hnil] at hlen
    cases hlen
  · obtain ⟨k, hblock, rfl⟩ := State.readBlock_of_bad hbad
    show s.loadAtI _ _ = _
    rw [State.loadAtI, hblock]
    rfl
  · obtain ⟨k, hblock, rfl⟩ := State.readBlock_of_bad hbad
    show execDrw x y n s = _
    rw [execDrw, hblock]
    rfl

/-- Settles O25: the cells the store filled are readable, and the load gives each back. -/
theorem blockLoadUndoesBlockStore : Obligations.BlockLoadUndoesBlockStore := by
  intro s t u x hwf hrange hstore hmem hconfig hi
  obtain ⟨t', hexec, hcell, _, _, hframe⟩ := blockStoreStoresTheRegisters s x hwf hrange
  rw [hstore] at hexec
  cases hexec
  have hui : u.i = s.i := hi.trans (by rw [hframe])
  have hstored : ∀ k : RegNum, k ≤ x → u.cell (u.i.toNat + k.toNat) = some (s.reg k) := fun k hk => by
    rw [hui, State.cell_congr hmem hconfig]
    exact hcell k hk
  have hread : u.Readable (x.toNat + 1) := fun k hk => by
    have hk16 : (BitVec.ofNat 4 k : RegNum).toNat = k := by rw [BitVec.toNat_ofNat]; omega
    refine ⟨by rw [State.effective, hui]; omega, s.reg (BitVec.ofNat 4 k), ?_⟩
    have hcell' := hstored (BitVec.ofNat 4 k) (by show (BitVec.ofNat 4 k).toNat ≤ x.toNat; omega)
    rwa [hk16] at hcell'
  obtain ⟨r, hload, hloaded, _⟩ := blockLoadLoadsTheRegisters u x hread
  exact ⟨r, hload, fun k hk => Option.some.inj ((hloaded k hk).symm.trans (hstored k hk))⟩

end Sys2Proof.Machine

/-! PROOFS. The framebuffer (44_display.md): `cls`, and `drw` as a sequence of row draws, whose cells and pixels then have a
closed form. -/

namespace Sys2Proof.Machine

/-- Settles O27: a framebuffer byte of `exec_cls` is 0, so every pixel of it is unlit. -/
theorem clsClearsTheFramebuffer : Obligations.ClsClearsTheFramebuffer := by
  intro s hwf
  obtain ⟨m, hexec, _, hcell⟩ := exec_cls hwf
  refine ⟨_, hexec, fun a hlo hhi => ?_, fun a ha => ?_, fun px py hpx hpy => ?_, rfl, rfl, rfl⟩
  · exact (hcell a).trans (if_pos (by omega))
  · exact (hcell a).trans (if_neg (by omega))
  · show m.pixel s.config.strictUninit px py = false
    have hlo := fbAddr_ge py (px / 8)
    have hhi := fbAddr_lt hpy (show px / 8 < 8 by omega)
    unfold fbBase at hlo
    unfold memSize at hhi
    rw [Memory.pixel, hcell, if_pos ⟨hlo, hhi⟩]
    simp

/-- The memories between the rows of a sprite of `n` rows drawn at `p` from this state: each row is read from memory as the
rows before it left it, and XORed onto its pixel row (R151). -/
structure State.Draws (s : State) (p : SpritePos) (n : Nat) (ms : Nat → Memory) (row : Nat → Byte) : Prop where
  start : ms 0 = s.mem
  read : ∀ k < n, (ms k).cell s.config.strictUninit (s.effective k) = some (row k)
  cell : ∀ k < n, ∀ b, (ms (k + 1)).cell s.config.strictUninit b =
    ((ms k).cell s.config.strictUninit b).map (· ^^^ rowMask p ((p.y0 + k) % 32) (row k) b)

/-- What a row draw that answered did: its mask into each cell, and a collision exactly where it turned a lit pixel off. -/
theorem drawRow_ok {strict c : Bool} {m m' : Memory} {p : SpritePos} {y : Nat} {row : Byte} (hwf : m.wf strict = true)
    (hy : y < 32) (hb : p.bx < 8) (h : drawRow strict m p y row = .ok (m', c)) :
    (∀ b, m'.cell strict b = (m.cell strict b).map (· ^^^ rowMask p y row b)) ∧
    (c = true ↔ ∃ px < 64, ∃ py < 32, m.pixel strict px py = true ∧ m'.pixel strict px py = false) := by
  obtain ⟨m'', c', hdraw, _, hcell, hcollides⟩ := drawRow_spec row hwf hy hb
  rw [h] at hdraw
  cases hdraw
  exact ⟨hcell, drawRow_collides hy hb hcell hcollides⟩

/-- Some row, on being drawn, turns a lit pixel off. -/
def TurnsOff (strict : Bool) (n : Nat) (ms : Nat → Memory) : Prop :=
  ∃ r < n, ∃ px < 64, ∃ py < 32, (ms r).pixel strict px py = true ∧ (ms (r + 1)).pixel strict px py = false

/-- The state `drw` leaves when it completes with memory `m` and collision `coll`. -/
def State.drawn (s : State) (m : Memory) (coll : Bool) : State :=
  ({ s with mem := m, drawFlag := true }.setReg vF (flagByte coll)).advance

/-- `drw` over readable cells draws its rows, and its flag is set exactly when some row turns a lit pixel off. -/
theorem exec_drw_draws {s : State} (x y : RegNum) {n : Nibble} (hwf : s.mem.wf s.config.strictUninit = true)
    (hread : s.Readable n.toNat) :
    ∃ ms row coll, s.Draws (spritePos (s.reg x) (s.reg y)) n.toNat ms row ∧
      exec (.drw x y n) s = .next (s.drawn (ms n.toNat) coll) ∧
      (coll = true ↔ TurnsOff s.config.strictUninit n.toNat ms) := by
  have hb := spritePos_bx_lt (s.reg x) (s.reg y)
  obtain ⟨bs, hblock, _⟩ := State.readBlock_of_readable hread
  obtain ⟨ms, c, row, coll, hrun, hstart, hwfs, hrows, hcoll⟩ :=
    drawRows_trace (base := s.i.toNat) (r := 0) (coll := false) hb hwf
      (fun k hk => by rw [Nat.zero_add]; exact hread k hk)
  simp only [Nat.zero_add, Bool.false_eq_true, false_or] at hrows hcoll
  have hy : ∀ k, ((spritePos (s.reg x) (s.reg y)).y0 + k) % 32 < 32 := fun k => Nat.mod_lt _ (by decide)
  have hrow := fun k hk => drawRow_ok (hwfs k hk.le) (hy k) hb (hrows k hk).2
  refine ⟨ms, row, coll, ⟨hstart, fun k hk => (hrows k hk).1, fun k hk => (hrow k hk).1⟩, ?_, ?_⟩
  · show execDrw x y n s = _
    rw [execDrw, hblock]
    dsimp only
    rw [hrun]
    rfl
  · rw [hcoll]
    exact exists_congr fun k => and_congr_right fun hk => (hrow k hk).2

/-- What the first `k` rows of a sprite have XORed into cell `a`. -/
def spriteMask (p : SpritePos) (row : Nat → Byte) (k a : Nat) : Byte :=
  match k with
  | 0 => 0
  | k + 1 => spriteMask p row k a ^^^ rowMask p ((p.y0 + k) % 32) (row k) a

/-- A row's mask is 0 outside the sprite's cells. -/
theorem rowMask_outside {p : SpritePos} {n r a : Nat} (hr : r < n) (row : Byte) (ha : ¬ spriteCell p n a) :
    rowMask p ((p.y0 + r) % 32) row a = 0 := by
  have hleft : a ≠ fbAddr ((p.y0 + r) % 32) p.bx := fun h => ha ⟨r, hr, .inl h⟩
  rw [rowMask, if_neg hleft]
  split_ifs with hright
  · have hsh : p.sh = 0 := by_contra fun hsh => ha ⟨r, hr, .inr ⟨hsh, hright⟩⟩
    exact if_pos hsh
  · rfl

theorem spriteMask_outside {p : SpritePos} {n a : Nat} (row : Nat → Byte) (ha : ¬ spriteCell p n a) :
    ∀ k ≤ n, spriteMask p row k a = 0 := by
  intro k
  induction k with
  | zero => exact fun _ => rfl
  | succ k ih =>
    intro hk
    rw [spriteMask, ih (by omega), rowMask_outside (by omega) _ ha]
    rfl

/-- The sprite's cells are in the framebuffer. -/
theorem spriteCell_ge {p : SpritePos} {n a : Nat} (h : spriteCell p n a) : 0xF00 ≤ a := by
  obtain ⟨r, _, rfl | ⟨_, rfl⟩⟩ := h
  · exact fbAddr_ge _ _
  · exact fbAddr_ge _ _

section Draws
variable {s : State} {p : SpritePos} {n : Nat} {ms : Nat → Memory} {row : Nat → Byte}

/-- A cell after `k` rows: the cell before, XOR what the rows XORed into it. -/
theorem State.Draws.cell_eq (h : s.Draws p n ms row) (a : Nat) : ∀ k ≤ n,
    (ms k).cell s.config.strictUninit a = (s.cell a).map (· ^^^ spriteMask p row k a) := by
  intro k
  induction k with
  | zero =>
    intro _
    rw [h.start]
    show s.cell a = _
    cases s.cell a <;> simp [spriteMask]
  | succ k ih =>
    intro hk
    rw [h.cell k (by omega), ih (by omega), Option.map_map]
    congr 1
    funext b
    simp [spriteMask, BitVec.xor_assoc]

theorem State.Draws.cell_outside (h : s.Draws p n ms row) {a : Nat} (ha : ¬ spriteCell p n a) {k : Nat} (hk : k ≤ n) :
    (ms k).cell s.config.strictUninit a = s.cell a := by
  rw [h.cell_eq a k hk, spriteMask_outside row ha k hk]
  cases s.cell a <;> simp

theorem State.Draws.cell_below (h : s.Draws p n ms row) {a : Nat} (ha : a < 0xF00) {k : Nat} (hk : k ≤ n) :
    (ms k).cell s.config.strictUninit a = s.cell a :=
  h.cell_outside (fun hsprite => absurd (spriteCell_ge hsprite) (by omega)) hk

/-- The rows of a sprite below the framebuffer are read as the first of them found them. -/
theorem State.Draws.read_below (h : s.Draws p n ms row) (hi : s.i.toNat + n ≤ 0xF00) {k : Nat} (hk : k < n) :
    s.cell (s.effective k) = some (row k) := by
  rw [← h.read k hk, h.cell_below (by unfold State.effective; omega) hk.le]

end Draws

section Pixels
variable {s : State} {vx vy : Byte} {n : Nat} {ms : Nat → Memory} {row : Nat → Byte} {px py : Nat}

/-- A row changes exactly the pixels its 1 bits land on. -/
theorem State.Draws.pixel_ne_iff (h : s.Draws (spritePos vx vy) n ms row) (hpx : px < 64) {k : Nat} (hk : k < n) :
    (ms (k + 1)).pixel s.config.strictUninit px py ≠ (ms k).pixel s.config.strictUninit px py ↔
      rowHits (row k) vx.toNat vy.toNat k px py := by
  rw [← rowMask_hits vx vy (row k) k hpx, pixel_drawRow (h.cell k hk)]
  cases (ms k).pixel s.config.strictUninit px py <;> simp

/-- Two rows of one sprite land on different pixel rows. -/
theorem rowHits_unique {row row' : Byte} {vx vy r r' px py : Nat} (hr : r < 32) (hr' : r' < 32)
    (h : rowHits row vx vy r px py) (h' : rowHits row' vx vy r' px py) : r = r' := by
  obtain ⟨_, _, _, _, hpy⟩ := h
  obtain ⟨_, _, _, _, hpy'⟩ := h'
  omega

/-- After `k` rows exactly the pixels hit by one of them are changed: no pixel is hit twice. -/
theorem State.Draws.pixel_ne_start_iff (h : s.Draws (spritePos vx vy) n ms row) (hn : n ≤ 32) (hpx : px < 64) : ∀ k ≤ n,
    ((ms k).pixel s.config.strictUninit px py ≠ s.pixel px py ↔ ∃ r < k, rowHits (row r) vx.toNat vy.toNat r px py) := by
  intro k
  induction k with
  | zero =>
    intro _
    rw [h.start]
    exact iff_of_false (fun hne => hne rfl) (fun ⟨_, hr, _⟩ => absurd hr (Nat.not_lt_zero _))
  | succ k ih =>
    intro hk
    have hstep := h.pixel_ne_iff (py := py) hpx (show k < n by omega)
    have hbefore := ih (by omega)
    by_cases hhit : rowHits (row k) vx.toNat vy.toNat k px py
    · have hmiss : ¬ ∃ r < k, rowHits (row r) vx.toNat vy.toNat r px py := fun ⟨r, hr, hhit'⟩ =>
        absurd (rowHits_unique (by omega) (by omega) hhit' hhit) (by omega)
      have hsame := not_not.mp (mt hbefore.mp hmiss)
      refine iff_of_true ?_ ⟨k, by omega, hhit⟩
      rw [← hsame]
      exact hstep.mpr hhit
    · rw [not_not.mp (mt hstep.mp hhit), hbefore]
      constructor
      · rintro ⟨r, hr, hhit'⟩
        exact ⟨r, by omega, hhit'⟩
      · rintro ⟨r, hr, hhit'⟩
        have hne : r ≠ k := fun hrk => hhit (hrk ▸ hhit')
        exact ⟨r, by omega, hhit'⟩

/-- A pixel that row `r` hits is as at the start before the row, and is turned over by it for good. -/
theorem State.Draws.pixel_of_hit (h : s.Draws (spritePos vx vy) n ms row) (hn : n ≤ 32) (hpx : px < 64) {r : Nat} (hr : r < n)
    (hhit : rowHits (row r) vx.toNat vy.toNat r px py) :
    (ms r).pixel s.config.strictUninit px py = s.pixel px py ∧
    (ms (r + 1)).pixel s.config.strictUninit px py = !s.pixel px py ∧
    (ms n).pixel s.config.strictUninit px py = !s.pixel px py := by
  have hchanged : ∀ k ≤ n, r < k → (ms k).pixel s.config.strictUninit px py = !s.pixel px py := fun k hk hrk =>
    Bool.eq_not_of_ne ((h.pixel_ne_start_iff hn hpx k hk).mpr ⟨r, hrk, hhit⟩)
  refine ⟨?_, hchanged (r + 1) hr (Nat.lt_succ_self r), hchanged n le_rfl hr⟩
  by_contra hne
  obtain ⟨r', hr', hhit'⟩ := (h.pixel_ne_start_iff hn hpx r hr.le).mp hne
  exact absurd (rowHits_unique (by omega) (by omega) hhit' hhit) (by omega)

/-- Some row turns a lit pixel off exactly when some pixel lit before the draw is unlit after it. -/
theorem State.Draws.turnsOff_iff (h : s.Draws (spritePos vx vy) n ms row) (hn : n ≤ 32) :
    TurnsOff s.config.strictUninit n ms ↔
      ∃ px < 64, ∃ py < 32, s.pixel px py = true ∧ (ms n).pixel s.config.strictUninit px py = false := by
  constructor
  · rintro ⟨r, hr, px, hpx, py, hpy, hlit, hoff⟩
    have hhit := (h.pixel_ne_iff (py := py) hpx hr).mp (by rw [hlit, hoff]; decide)
    obtain ⟨hbefore, _, hafter⟩ := h.pixel_of_hit hn hpx hr hhit
    rw [hlit] at hbefore
    exact ⟨px, hpx, py, hpy, hbefore.symm, by rw [hafter, ← hbefore]; rfl⟩
  · rintro ⟨px, hpx, py, hpy, hlit, hoff⟩
    obtain ⟨r, hr, hhit⟩ := (h.pixel_ne_start_iff hn hpx n le_rfl).mp (by rw [hlit, hoff]; decide)
    obtain ⟨hbefore, hafter, _⟩ := h.pixel_of_hit hn hpx hr hhit
    exact ⟨r, hr, px, hpx, py, hpy, hbefore.trans hlit, by rw [hafter, hlit]; rfl⟩

end Pixels

-- The state `drw` leaves.

theorem State.drawn_flag (s : State) (m : Memory) (coll : Bool) : (s.drawn m coll).reg vF = flagByte coll :=
  State.reg_setReg_same ..

theorem State.drawn_flag_cases (s : State) (m : Memory) (coll : Bool) :
    ((s.drawn m coll).reg vF = 0 ∨ (s.drawn m coll).reg vF = 1) ∧ ((s.drawn m coll).reg vF = 1 ↔ coll = true) := by
  rw [State.drawn_flag]
  exact flagByte_cases coll

theorem State.drawn_reg (s : State) (m : Memory) (coll : Bool) {k : RegNum} (hk : k ≠ vF) :
    (s.drawn m coll).reg k = s.reg k := (State.reg_setReg _ vF k _).trans (if_neg hk)

/-- Settles O28: the registers by `State.drawn`, the cells by the rows' masks. -/
theorem drwCompletesWithinItsFrame : Obligations.DrwCompletesWithinItsFrame := by
  intro s x y n hwf hread
  obtain ⟨ms, row, coll, hdraws, hexec, _⟩ := exec_drw_draws x y hwf hread
  exact ⟨_, hexec, (s.drawn_flag_cases _ coll).1, fun k hk => s.drawn_reg _ coll hk, fun a ha => hdraws.cell_outside ha le_rfl,
    rfl, rfl, rfl⟩

/-- Settles O29: the memories between the rows, each changed where its row's mask has a bit. -/
theorem drwDrawsRowAfterRow : Obligations.DrwDrawsRowAfterRow := by
  intro s x y n hwf hread
  obtain ⟨ms, row, coll, hdraws, hexec, hcoll⟩ := exec_drw_draws x y hwf hread
  obtain ⟨hflag, hflag_iff⟩ := s.drawn_flag_cases (ms n.toNat) coll
  exact ⟨_, hexec, ms, hdraws.start, rfl, fun r hr a ha => hdraws.cell_below ha hr,
    fun r hr => ⟨row r, hdraws.read r hr, fun px py hpx _ => hdraws.pixel_ne_iff hpx hr⟩, hflag, hflag_iff.trans hcoll⟩

/-- A sprite has at most 15 rows. -/
theorem nibble_rows (n : Nibble) : n.toNat ≤ 32 := by omega

/-- Settles O30: each pixel is hit by one row at most, and each row is read as at the start. -/
theorem drwChangesExactlyTheSpritePixels : Obligations.DrwChangesExactlyTheSpritePixels := by
  intro s x y n hwf hread hi
  obtain ⟨ms, row, coll, hdraws, hexec, hcoll⟩ := exec_drw_draws x y hwf hread
  obtain ⟨hflag, hflag_iff⟩ := s.drawn_flag_cases (ms n.toNat) coll
  refine ⟨_, hexec, fun px py hpx _ => ?_, hflag, hflag_iff.trans (hcoll.trans (hdraws.turnsOff_iff (nibble_rows n)))⟩
  refine (hdraws.pixel_ne_start_iff (nibble_rows n) hpx n.toNat le_rfl).trans ?_
  refine exists_congr fun r => and_congr_right fun hr => ?_
  have hcell := hdraws.read_below hi hr
  constructor
  · exact fun hhit => ⟨row r, hcell, hhit⟩
  · rintro ⟨row', hcell', hhit⟩
    rw [hcell] at hcell'
    cases hcell'
    exact hhit

/-- The masks depend on the rows that are drawn alone. -/
theorem spriteMask_congr {p : SpritePos} {row row' : Nat → Byte} {n : Nat} (h : ∀ k < n, row k = row' k) (a : Nat) :
    ∀ k ≤ n, spriteMask p row k a = spriteMask p row' k a := by
  intro k
  induction k with
  | zero => exact fun _ => rfl
  | succ k ih => intro hk; rw [spriteMask, spriteMask, ih (by omega), h k (by omega)]

theorem State.pixel_congr {s t : State} (h : ∀ a, t.cell a = s.cell a) (px py : Nat) : t.pixel px py = s.pixel px py := by
  show ((t.cell _).getD 0).getLsbD _ = ((s.cell _).getD 0).getLsbD _
  rw [h]

section SameSprite
variable {s t : State} (hbelow : ∀ a < 0xF00, t.cell a = s.cell a) (hti : t.i = s.i)
include hbelow hti

/-- Cells below the framebuffer that can be read can be read where those are the same. -/
theorem State.Readable.of_below {n : Nat} (hi : s.i.toNat + n ≤ 0xF00) (h : s.Readable n) : t.Readable n := by
  intro k hk
  have heff : t.effective k = s.effective k := by rw [State.effective, hti]; rfl
  rw [heff, hbelow _ (by unfold State.effective; omega)]
  exact h k hk

/-- A sprite below the framebuffer has the same rows where the cells below the framebuffer are the same. -/
theorem State.Draws.row_eq {p p' : SpritePos} {n : Nat} {ms ms' : Nat → Memory} {row row' : Nat → Byte}
    (hi : s.i.toNat + n ≤ 0xF00) (h : s.Draws p n ms row) (h' : t.Draws p' n ms' row') {k : Nat} (hk : k < n) :
    row' k = row k := by
  have heff : t.effective k = s.effective k := by rw [State.effective, hti]; rfl
  have hcell := h'.read_below (by rw [hti]; exact hi) hk
  rw [heff, hbelow _ (by unfold State.effective; omega), h.read_below hi hk] at hcell
  exact (Option.some.inj hcell).symm

end SameSprite

/-- Settles O31: both draws XOR the same mask into each cell, and the second turns off what the first lit. -/
theorem drwTwiceRestoresTheFramebuffer : Obligations.DrwTwiceRestoresTheFramebuffer := by
  intro s t x y n hx hy hwf hread hi hfirst
  have hwf' := exec_wf hwf hfirst
  obtain ⟨ms, row, coll, hdraws, hexec, _⟩ := exec_drw_draws x y hwf hread
  rw [hexec] at hfirst
  cases hfirst
  have hbelow : ∀ a < 0xF00, (s.drawn (ms n.toNat) coll).cell a = s.cell a := fun a ha => hdraws.cell_below ha le_rfl
  obtain ⟨ms', row', coll', hdraws', hexec', hcoll'⟩ := exec_drw_draws x y hwf' (hread.of_below hbelow rfl hi)
  rw [s.drawn_reg _ coll hx, s.drawn_reg _ coll hy] at hdraws'
  have hrestored : ∀ a, ((s.drawn (ms n.toNat) coll).drawn (ms' n.toNat) coll').cell a = s.cell a := fun a => by
    refine (hdraws'.cell_eq a n.toNat le_rfl).trans ?_
    rw [spriteMask_congr (fun k hk => hdraws.row_eq hbelow rfl hi hdraws' hk) a n.toNat le_rfl,
      show (s.drawn (ms n.toNat) coll).cell a = _ from hdraws.cell_eq a n.toNat le_rfl]
    cases s.cell a <;> simp
  refine ⟨_, hexec', hrestored, ?_⟩
  rw [(State.drawn_flag_cases _ _ coll').2, hcoll', hdraws'.turnsOff_iff (nibble_rows n)]
  simp only [← State.pixel_congr hrestored]
  exact exists_congr fun px => and_congr_right fun _ => exists_congr fun py => and_congr_right fun _ => and_comm

end Sys2Proof.Machine
